-- ==== Sys2Proof/Word.lean ====
section
/-! DEFINITION. The widths of the block: an 8-bit byte (rule R8), a 16-bit length, count or offset (`LW`, rule R6), a 32-bit step word, register value or address (rules R6, R35, R90). -/

namespace Sys2Proof

/-- A byte is 8 bits (rule R8). -/
abbrev Byte := BitVec 8

/-- A length, count or offset field: `LW` = 16 bits (rule R6). -/
abbrev Len := BitVec 16

/-- A step word, a status register, the data of a response, or an address: 32 bits (rules R6, R35, R90, R95). -/
abbrev Word := BitVec 32

/-- `zext_32` of a length (rule R10). -/
def zext32 (x : Len) : Word := BitVec.ofNat 32 x.toNat

/-- A natural number as an `LW`-bit value. Every value the rules put in such a field is below 2^16 (decision D6). -/
def len (n : Nat) : Len := BitVec.ofNat 16 n

end Sys2Proof
end

