-- ==== Sys2Proof/Config.lean ====
section
/-! DEFINITION. The parameters of the block (rules R6, R7), the fixed ones as constants, and the free value of a read of RXRCUR. The OPEN parameters are data a state carries, so that a statement about every state is a statement about every configuration (log entry 1). -/

namespace Sys2Proof

/-- The OPEN parameters of rule R6. They are fixed before reset and no step changes them. -/
structure Params where
  /-- `C_tx`: capacity of TxBuffer in bytes, 1 to 65535. -/
  cTx : Nat
  /-- `C_rx`: capacity of RxBuffer in elements, 2 to 65535. -/
  cRx : Nat
  /-- `STRIDE`: address units between consecutive RxBuffer elements, at least 1. -/
  stride : Nat
  /-- `TXBASE`: address of TxBuffer element 0. -/
  txBase : Word
  /-- `RXBASE`: address of RxBuffer element 0. -/
  rxBase : Word
  /-- `ARB_ATOMIC`: TXSEND is held while the sequencer is at phase S5 (decision D18). -/
  arbAtomic : Bool
  deriving DecidableEq, Repr

namespace Config

/-- `AW`: the width of an address (rule R6, decision D5). -/
def addressWidth : Nat := 32

/-- `IMASK_RESET`: the value of `irq_mask` after reset (rule R6, decision D27). -/
def irqMaskReset : Bool := false

/-- DESIGN CHOICE (log entry 1): the parameters `State.reset` carries. They are the ones the spec's own vectors
run with (`95_test_vectors.md`, Notation: `C_tx = 8`, `C_rx = 8`, `STRIDE = 1`, `ARB_ATOMIC = false`; V33d:
`RXBASE = 0x20001000`); `TXBASE` is chosen. The source fixes none of them, and no statement rests on them. -/
def vectorParams : Params :=
  { cTx := 8, cRx := 8, stride := 1, txBase := 0x20000000#32, rxBase := 0x20001000#32, arbAtomic := false }

/-- FREE VALUE (log entry 2; rule R183, decision D44): the 32-bit value the `k`-th read of RXRCUR returns while the read
cursor is uninitialized. It has no body: nothing constrains it. -/
opaque rxrcurDraw : Nat → Word

end Config

end Sys2Proof
end

