-- ==== Sys2Proof/Syntax.lean ====
section
/-! DEFINITION. The step words as syntax: one constructor per row of the opcode map (rule R92), the status registers RDREG names (rule R35), the five agents (rule R5), and the names under which a word is rejected (rule R97). -/

namespace Sys2Proof

/-- The six read-only status registers `x[0]` to `x[5]` (rule R35). -/
inductive StatusReg where
  /-- `x[0]`, STATUS. -/
  | status
  /-- `x[1]`, TXLEN. -/
  | txlen
  /-- `x[2]`, RXWCUR. -/
  | rxwcur
  /-- `x[3]`, RXRCUR. -/
  | rxrcur
  /-- `x[4]`, CAPTX. -/
  | captx
  /-- `x[5]`, CAPRX. -/
  | caprx
  deriving DecidableEq, Repr

/-- The commands (`opc[3] = 0`) and the step labels (`opc[3] = 1`) of rule R92. -/
inductive Instr where
  /-- 0x1 INIT (rule R180). -/
  | init
  /-- 0x2 SUBMIT: the count `n` and the payload bytes that follow the word (rules R94, R120). -/
  | submit (n : Len) (payload : List Byte)
  /-- 0x3 DRAIN (rule R154). -/
  | drain
  /-- 0x4 CSENTER (rule R181). -/
  | csenter
  /-- 0x5 CSEXIT: the mask bit to restore (rule R182). -/
  | csexit (m : Bool)
  /-- 0x6 RDREG: the register read (rule R183). -/
  | rdreg (r : StatusReg)
  /-- 0x8 RXBYTE: the byte received (rule R160). -/
  | rxbyte (b : Byte)
  /-- 0x9 RXSTART (rule R159). -/
  | rxstart
  /-- 0xA TXSEND (rule R127). -/
  | txsend
  /-- 0xB TXDONE (rule R128). -/
  | txdone
  /-- 0xC IRQTAKE (rule R205). -/
  | irqtake
  /-- 0xF SEQ (rule R184). -/
  | seq
  deriving DecidableEq, Repr

/-- The five agents that take steps (rule R5). -/
inductive Agent where
  | req | seq | txe | rxe | irq
  deriving DecidableEq, Repr

/-- Why a word has no meaning. The first six are the cases of rule R97; the last two are the model's own, for a
presentation the spec does not describe (log entry 6). -/
inductive DecodeError where
  /-- `opc` is 0x0, 0x7, 0xD or 0xE. -/
  | reservedOpcode
  /-- `w[27:24]` is not 0. -/
  | nonzeroRsv
  /-- `w[23:16]` is not 0 in a word other than RXBYTE. -/
  | nonzeroB
  /-- a bit of `w[15:0]` that must be 0 is not. -/
  | nonzeroN
  /-- RDREG of register 6 or 7. -/
  | reservedRegister
  /-- a label word on the command port. -/
  | labelOnCommandPort
  /-- the bytes that follow the word are not exactly as many as the word asks for. -/
  | payloadLength
  /-- a legal command word in the place of a step label. -/
  | commandAsLabel
  deriving DecidableEq, Repr

end Sys2Proof
end

