-- ==== Sys2Proof/Machine/State.lean ====
section
/-! DEFINITION. The state of the block (rule R20), its observation streams (rule R12), the inputs the environment offers it, the reasons a step can stop, and the state after reset (rules R43, R240). -/

namespace Sys2Proof.Machine

/-- The block's memory: the address and the byte of every buffer element that holds a value, addresses strictly rising. An
address that is not listed holds no value (rules R43, R68). -/
abbrev Memory := List Host.Cell

/-- The sequencer phase, the block's program counter: the sixteen values of its four bits (rule R33). -/
inductive Phase where
  | idle | s1 | s2 | s3 | s4 | s5 | s6
  /-- 7: reserved, written by no rule. -/
  | reserved7
  | d1 | d2 | d3 | d4
  /-- 12 to 15: reserved, written by no rule. -/
  | reserved12 | reserved13 | reserved14 | reserved15
  deriving DecidableEq, Repr

/-- The sticky fault code `flt` (rules R32, R202). -/
inductive Flt where
  /-- 0: no fault. -/
  | noFault
  /-- 1: SUBMIT or DRAIN before INIT. -/
  | notConfigured
  /-- 2: a cursor outside the buffer or a channel address that is no element's. -/
  | cursorInvalid
  /-- 3: a read of an element nothing has written. -/
  | uninitRead
  deriving DecidableEq, Repr

/-- A response `(status, data)` (rule R95). -/
structure Response where
  status : BitVec 4
  data : Word
  deriving DecidableEq, Repr

/-- An entry of `drain_out`: a byte, or the boundary the end of a DRAIN leaves (rule R12). -/
inductive DrainItem where
  | byte (b : Byte)
  | close
  deriving DecidableEq, Repr

/-- The one entry `irq_log` takes (rule R205). -/
inductive IrqEntry where
  | taken
  deriving DecidableEq, Repr

/-- The observation streams of rule R12, oldest entry first. No rule reads them. `accepted` is the model's own (log entry 8):
the payload bytes of every SUBMIT answered with status 0, in command order, so that rule R131 can be stated. -/
structure Streams where
  wireOut : List Byte
  wireIn : List Byte
  drainOut : List DrainItem
  rspLog : List Response
  irqLog : List IrqEntry
  accepted : List Byte
  deriving DecidableEq, Repr

/-- One presentation on the command port: a word and the payload bytes that follow it (rule R94). -/
structure Presented where
  word : Word
  payload : List Byte
  deriving DecidableEq, Repr

/-- Which agent moves next: the requester presents the head of its port, or the autonomous step a label word names is taken
(rules R5, R90; log entry 3). -/
inductive Turn where
  | req
  | label (w : Word)
  deriving DecidableEq, Repr

/-- The direction of a transfer descriptor (rule R44). -/
inductive Direction where
  | tx | rx
  deriving DecidableEq, Repr

/-- The addressing mode of a transfer descriptor (rules R44, R69, R70). -/
inductive AddressingMode where
  | linear | circular
  deriving DecidableEq, Repr

/-- An end of a transfer: a buffer address, or the transceiver's data port `PERIPH`, which has no address (rule R44). -/
inductive Endpoint where
  | buffer (addr : Word)
  | periph
  deriving DecidableEq, Repr

/-- A transfer descriptor: the argument of `configure`, not state (rule R44). -/
structure TransferDescriptor where
  dir : Direction
  mode : AddressingMode
  src : Endpoint
  dst : Endpoint
  len : Len
  deriving DecidableEq, Repr

/-- The state of the block, element by element of rule R20, with the parameters it was built with (rule R6), the observation
streams (rule R12) and the inputs. -/
structure State where
  /-- The OPEN parameters of rule R6 (log entry 1). -/
  par : Params
  /-- `txbuf` and `rxbuf`, by address (rules R21, R25, R61, R62). -/
  mem : Memory
  /-- `tx_len`, the TX committed length (rule R22). -/
  txLen : Len
  /-- `tx_active` (rule R23). -/
  txActive : Bool
  /-- `tx_sent`, hidden (rule R24). -/
  txSent : Len
  /-- `rx_wcur`, the hardware write cursor (rule R26). -/
  rxWcur : Len
  /-- `rcur`, the read cursor (rule R27). -/
  rcur : Len
  /-- `rcur_valid` (rule R27). -/
  rcurValid : Bool
  /-- `rx_started` (rule R28). -/
  rxStarted : Bool
  /-- `irq_mask` (rule R29). -/
  irqMask : Bool
  /-- `irq_pend` (rule R30). -/
  irqPend : Bool
  /-- `cfg` (rule R31). -/
  cfg : Bool
  /-- `flt` (rule R32). -/
  flt : Flt
  /-- `ph`, the program counter (rule R33). -/
  ph : Phase
  /-- `op_n` (rule R34). -/
  opN : Len
  /-- `op_bytes` (rule R34). -/
  opBytes : List Byte
  /-- `sL` (rule R34). -/
  sL : Len
  /-- `cs_saved` (rule R34). -/
  csSaved : Bool
  /-- `snap` (rule R34). -/
  snap : Len
  /-- `dptr` (rule R34). -/
  dptr : Len
  /-- `dend` (rule R34). -/
  dend : Len
  /-- `dcnt` (rule R34). -/
  dcnt : Len
  /-- The observation streams (rule R12). -/
  obs : Streams
  /-- The model's own: the info of the fault `flt` records (rule R202, log entry 4). -/
  fltInfo : Nat
  /-- The model's own: how many values have been drawn for RXRCUR (rule R183, log entry 2). -/
  draws : Nat
  /-- Input: what the requester presents, next first (log entry 3). -/
  port : List Presented
  /-- Input: whose turn it is, next first (log entry 3). -/
  sched : List Turn
  deriving DecidableEq, Repr

/-- Why the machine stops with a fault. The first three are rule R202's: the step that raises one is a next state that records
`flt`, and every later step answers the fault, since no agent has a step any more (log entry 4). The last two are the model's
own, for states no run reaches (log entry 7). All are safe: the machine stops. -/
inductive Fault where
  /-- `flt = 1`: SUBMIT or DRAIN was presented before INIT; the info is its `opc`. -/
  | notConfigured (info : Nat)
  /-- `flt = 2`: `mkCursor` or `rx_off` met an invalid value; the info is the value. -/
  | cursorInvalid (info : Nat)
  /-- `flt = 3`: `MemRead` met an element never written; the info is its address. -/
  | uninitRead (info : Nat)
  /-- The model's own, raised by `MemRead` and `MemWrite`: no buffer has an element at the address. -/
  | noSuchElement (addr : Nat)
  /-- The model's own, raised by phases S2 and S6: `op_bytes` does not hold `op_n` bytes. -/
  | payloadMissing (n : Nat)
  deriving DecidableEq, Repr

/-- Why the model gives a step no meaning: rule R203's five reasons, and two of the model's own. All are safe: a refused run is
one the model says nothing about. -/
inductive Refusal where
  /-- An instruction without a meaning yet. No arm answers it. -/
  | notModelled (mnemonic : String)
  /-- The decoder: an illegal word (rule R97). -/
  | illegalCommand (why : DecodeError)
  /-- The model's own, the decoder: a presentation the spec does not describe (log entry 6). -/
  | badPresentation (why : DecodeError)
  /-- SUBMIT phase S1 with `n = 0` (rule R121). -/
  | zeroLength
  /-- INIT with `cfg = 1` (rule R180). -/
  | doubleInit
  /-- The parameters break rule R7. -/
  | badConfig
  /-- SEQ at a reserved phase (rule R184). -/
  | reservedPhase
  deriving DecidableEq, Repr

/-- The observation streams after reset: empty (rule R43). -/
def Streams.reset : Streams :=
  { wireOut := [], wireIn := [], drainOut := [], rspLog := [], irqLog := [], accepted := [] }

/-- The state after reset of a block with parameters `p` (rules R43, R240). The elements rule R43 leaves not defined (`rcur` and
the working registers) hold 0 or nothing, a DESIGN CHOICE (log entry 5). -/
def State.resetWith (p : Params) : State :=
  { par := p
    mem := []
    txLen := 0, txActive := false, txSent := 0
    rxWcur := 0, rcur := 0, rcurValid := false, rxStarted := false
    irqMask := Config.irqMaskReset, irqPend := false
    cfg := false
    flt := .noFault
    ph := .idle
    opN := 0, opBytes := [], sL := 0, csSaved := false
    snap := 0, dptr := 0, dend := 0, dcnt := 0
    obs := Streams.reset
    fltInfo := 0, draws := 0
    port := [], sched := [] }

/-- The state after reset, with the parameters of the spec's vectors (log entry 1). -/
def State.reset : State := State.resetWith Config.vectorParams

end Sys2Proof.Machine
end

