-- ==== Sys2Proof/Machine/Ops.lean ====
section
/-! DEFINITION. The operations the meanings share: memory and its addresses (rules R61, R62, R68), cursors (rules R150 to R153), the parameter check (rule R7), responses and observation streams (rules R10, R12, R95), the channel's `configure` (rules R44, R133), taking a fault (rules R10, R32, R202), and when an agent has a step (rules R11, R185). There is no return from a fault: only reset clears `flt` (rule R241). -/

namespace Sys2Proof.Machine

/-- The outcome of a step. -/
abbrev Result := Host.Outcome State Fault Refusal

/-! ## The phase codes and the fault codes -/

/-- The 4-bit encoding of a phase (rule R33). -/
def Phase.code : Phase → BitVec 4
  | .idle => 0 | .s1 => 1 | .s2 => 2 | .s3 => 3 | .s4 => 4 | .s5 => 5 | .s6 => 6 | .reserved7 => 7
  | .d1 => 8 | .d2 => 9 | .d3 => 10 | .d4 => 11
  | .reserved12 => 12 | .reserved13 => 13 | .reserved14 => 14 | .reserved15 => 15

/-- The 4-bit fault code (rule R202). -/
def Flt.code : Flt → BitVec 4
  | .noFault => 0 | .notConfigured => 1 | .cursorInvalid => 2 | .uninitRead => 3

/-! ## Memory -/

/-- The byte an address holds, if something has written it. -/
def Memory.read : Memory → Nat → Option Byte
  | [], _ => none
  | c :: m, a => if c.1 = a then some c.2 else Memory.read m a

/-- Installs a byte at an address, keeping the addresses strictly rising; the previous content is lost. -/
def Memory.write : Memory → Nat → Byte → Memory
  | [], a, v => [(a, v)]
  | c :: m, a, v =>
    if a < c.1 then (a, v) :: c :: m
    else if a = c.1 then (a, v) :: m
    else c :: Memory.write m a v

/-- Installs bytes at successive addresses. -/
def Memory.writeRun : Memory → Nat → List Byte → Memory
  | m, _, [] => m
  | m, a, v :: vs => Memory.writeRun (m.write a v) (a + 1) vs

/-- The canonical form: addresses strictly rising. (An unlisted address holds no value, so no entry equals what one reads as.) -/
abbrev Memory.wf (m : Memory) : Prop := m.Pairwise (fun c d => c.1 < d.1)

/-! ## The parameters and the address map -/

/-- The constraints of rule R7: the ranges of the parameters, no buffer wraps the address space, and the two are disjoint. -/
def paramsOk (p : Params) : Bool :=
  decide (1 ≤ p.cTx) && decide (p.cTx ≤ 65535) && decide (2 ≤ p.cRx) && decide (p.cRx ≤ 65535) && decide (1 ≤ p.stride)
    && decide (p.txBase.toNat + p.cTx ≤ 2 ^ Config.addressWidth)
    && decide (p.rxBase.toNat + p.stride * p.cRx ≤ 2 ^ Config.addressWidth)
    && (decide (p.txBase.toNat + p.cTx ≤ p.rxBase.toNat) || decide (p.rxBase.toNat + p.stride * p.cRx ≤ p.txBase.toNat))

/-- `tx_addr(off) = TXBASE + off` (rule R61). -/
def txAddr (p : Params) (off : Nat) : Nat := p.txBase.toNat + off

/-- `rx_addr(off) = RXBASE + STRIDE * off` (rule R62). -/
def rxAddr (p : Params) (off : Nat) : Nat := p.rxBase.toNat + p.stride * off

/-- `rx_off(addr)`: the offset of an RX element's address; `none` is `CursorInvalid(addr)` (rules R62, R153). -/
def rxOff (p : Params) (addr : Nat) : Option Nat :=
  if p.rxBase.toNat ≤ addr ∧ addr < p.rxBase.toNat + p.stride * p.cRx ∧ (addr - p.rxBase.toNat) % p.stride = 0 then
    some ((addr - p.rxBase.toNat) / p.stride)
  else none

/-- An address is `tx_addr(off)` with `off < C_tx` (rules R61, R68). -/
def isTxElement (p : Params) (addr : Nat) : Bool :=
  decide (p.txBase.toNat ≤ addr) && decide (addr < p.txBase.toNat + p.cTx)

/-- An address is an element of one of the two buffers (rule R68). -/
def isElement (p : Params) (addr : Nat) : Bool := isTxElement p addr || (rxOff p addr).isSome

/-- `txbuf[off]`, if it holds a value. -/
def State.txbuf (s : State) (off : Nat) : Option Byte := s.mem.read (txAddr s.par off)

/-- `rxbuf[off]`, if it holds a value. -/
def State.rxbuf (s : State) (off : Nat) : Option Byte := s.mem.read (rxAddr s.par off)

/-! ## Cursors -/

/-- `mkCursor(v)`; `none` is `CursorInvalid(v)` (rule R150). -/
def mkCursor (p : Params) (v : Nat) : Option Nat := if v < p.cRx then some v else none

/-- `advance(c, k) = (c + k) mod C_rx` (rule R151). -/
def advance (p : Params) (c k : Nat) : Nat := (c + k) % p.cRx

/-- `unread(w, r) = (w - r) mod C_rx` (rule R152). -/
def unread (p : Params) (w r : Nat) : Nat := if r ≤ w then w - r else p.cRx - r + w

/-- The unread count of a state (rule R41). -/
def State.unreadCount (s : State) : Nat := unread s.par s.rxWcur.toNat s.rcur.toNat

/-! ## Stopping, faulting, holding -/

/-- Takes a fault: the step records its code, and its info beside it; no other element changes (rules R10, R32, R202). -/
def raise (f : Flt) (info : Nat) (s : State) : Result := .next { s with flt := f, fltInfo := info }

/-- What a state lets an agent do: once a fault is recorded, the machine has stopped with it (rules R11, R32, R202). -/
def unlessFaulted (s : State) (k : Result) : Result :=
  match s.flt with
  | .noFault => k
  | .notConfigured => .fault (.notConfigured s.fltInfo)
  | .cursorInvalid => .fault (.cursorInvalid s.fltInfo)
  | .uninitRead => .fault (.uninitRead s.fltInfo)

/-- A step of an agent: the rule's effect where the agent is enabled, a hold (the state does not change) where it is not
(rule R11). -/
def stepWhen (enabled : Bool) (s : State) (k : Result) : Result :=
  unlessFaulted s (if enabled then k else .next s)

/-- Command acceptance: REQ has a step only at `ph = IDLE` (rule R185). -/
def accept (s : State) (k : Result) : Result := stepWhen (s.ph == .idle) s k

/-- The check SUBMIT and DRAIN make on acceptance: `NotConfigured`, with the `opc` of the command (rules R186, R202). -/
def requireCfg (opc : Nat) (s : State) (k : Result) : Result := if s.cfg then k else raise .notConfigured opc s

/-! ## Memory access by the agents -/

/-- `MemRead(addr, 1)`, its byte handed on: `UninitRead(addr)` where nothing has written the element (rule R68). -/
def memRead (addr : Nat) (s : State) (k : Byte → Result) : Result :=
  if isElement s.par addr then
    match s.mem.read addr with
    | some v => k v
    | none => raise .uninitRead addr s
  else .fault (.noSuchElement addr)

/-- The state with a byte installed in the element at an address (rule R68). -/
def storeByte (addr : Nat) (v : Byte) (s : State) : State := { s with mem := s.mem.write addr v }

/-- `MemWrite(addr, 1, v)` (rule R68). -/
def memWrite (addr : Nat) (v : Byte) (s : State) (k : State → Result) : Result :=
  if isElement s.par addr then k (storeByte addr v s) else .fault (.noSuchElement addr)

/-- The state with bytes installed at successive addresses. -/
def storeRun (addr : Nat) (vs : List Byte) (s : State) : State := { s with mem := s.mem.writeRun addr vs }

/-- Every one of `n` successive addresses is an element's. -/
def runInMap (p : Params) (addr : Nat) : Nat → Bool
  | 0 => true
  | n + 1 => isElement p addr && runInMap p (addr + 1) n

/-- The copy of phases S2 and S6: `op_bytes` to the TX offsets from `off` on, in one step (rules R65, R122, R126). -/
def copyPayload (off : Nat) (s : State) (k : State → Result) : Result :=
  if s.opBytes.length = s.opN.toNat then
    if runInMap s.par (txAddr s.par off) s.opBytes.length then k (storeRun (txAddr s.par off) s.opBytes s)
    else .fault (.noSuchElement (txAddr s.par off))
  else .fault (.payloadMissing s.opN.toNat)

/-! ## Responses and observation streams -/

/-- `respond(st, d)` (rules R10, R95). -/
def respond (status : BitVec 4) (data : Word) (s : State) : State :=
  { s with obs := { s.obs with rspLog := s.obs.rspLog ++ [⟨status, data⟩] } }

/-- `emit(wire_out, v)` (rule R12). -/
def emitWireOut (v : Byte) (s : State) : State := { s with obs := { s.obs with wireOut := s.obs.wireOut ++ [v] } }

/-- `emit(wire_in, v)` (rule R12). -/
def emitWireIn (v : Byte) (s : State) : State := { s with obs := { s.obs with wireIn := s.obs.wireIn ++ [v] } }

/-- `emit(drain_out, v)` (rule R12). -/
def emitDrain (v : Byte) (s : State) : State := { s with obs := { s.obs with drainOut := s.obs.drainOut ++ [.byte v] } }

/-- `emit(irq_log, taken)` (rules R12, R205). -/
def emitIrq (s : State) : State := { s with obs := { s.obs with irqLog := s.obs.irqLog ++ [.taken] } }

/-- The response that ends a DRAIN, and the boundary it leaves in `drain_out` (rules R12, R95). -/
def respondDrain (count : Len) (s : State) : State :=
  respond 0 (zext32 count) { s with obs := { s.obs with drainOut := s.obs.drainOut ++ [.close] } }

/-- The response `Ok(Unit)` that ends a SUBMIT, and the payload it accepted in the model's own stream (rules R95, R131). -/
def respondSubmitted (s : State) : State :=
  respond 0 0 { s with obs := { s.obs with accepted := s.obs.accepted ++ s.opBytes } }

/-- The response `CapacityExceeded` that ends a SUBMIT (rules R96, R201, R209). -/
def respondCapacityExceeded (s : State) : State := respond 1 0 { s with ph := .idle }

/-! ## The channel -/

/-- The descriptor of phase S6: `(TX, linear, TXBASE, PERIPH, n)` (rules R44, R126). -/
def txDescriptor (p : Params) (n : Len) : TransferDescriptor :=
  { dir := .tx, mode := .linear, src := .buffer p.txBase, dst := .periph, len := n }

/-- The descriptor of INIT: `(RX, circular, PERIPH, RXBASE, C_rx)` (rules R44, R180). -/
def rxDescriptor (p : Params) : TransferDescriptor :=
  { dir := .rx, mode := .circular, src := .periph, dst := .buffer p.rxBase, len := len p.cRx }

/-- `configure(direction, mode, source, destination, length)`. The mode is the direction's own (rules R69, R70). TX installs
the length, puts the engine at the origin and enables the transfer (rules R126, R133); RX puts the write cursor at the origin
with no segment started (rule R180). -/
def configure (d : TransferDescriptor) (s : State) : State :=
  match d.dir with
  | .tx => { s with txLen := d.len, txSent := 0, txActive := true }
  | .rx => { s with rxWcur := 0, rxStarted := false }

/-- The active length: `tx_len` while a transfer is active, else 0 (rule R134). -/
def State.activeLength (s : State) : Len := if s.txActive then s.txLen else 0

/-! ## The critical section and the interrupt -/

/-- The interrupt mask takes a value: the shared critical-section primitive of CSENTER, CSEXIT, S3 and S5 (rules R29, R211). -/
def setMask (m : Bool) (s : State) : State := { s with irqMask := m }

/-- The request line to the processor: `irq_pend and not irq_mask` (rule R204). -/
def State.irqLine (s : State) : Bool := s.irqPend && !s.irqMask

end Sys2Proof.Machine
end

