-- ==== Sys2Proof/Machine/Flags.lean ====
section
/-! DEFINITION. The flags of the block: the STATUS register assembled from the state (rule R36). No operation computes a flag beyond what the rules of the elements themselves write. -/

namespace Sys2Proof.Machine

/-- STATUS: bit 0 TXACT, 1 RXST, 2 RCV, 3 IM, 4 IP, 5 CFG, bits 31 to 6 read 0 (rule R36). -/
def State.statusWord (s : State) : Word :=
  0#26 ++ BitVec.ofBool s.cfg ++ BitVec.ofBool s.irqPend ++ BitVec.ofBool s.irqMask ++ BitVec.ofBool s.rcurValid
    ++ BitVec.ofBool s.rxStarted ++ BitVec.ofBool s.txActive

end Sys2Proof.Machine
end

