-- ==== Sys2Proof/Machine/Operands.lean ====
section
/-! DEFINITION. The operand forms of the step words (rules R91, R93): the count and payload of SUBMIT, the register of RDREG. The mask bit of CSEXIT and the byte of RXBYTE are used as they stand. -/

namespace Sys2Proof.Machine

/-- SUBMIT's operands latched at acceptance: `op_n <- n`, `op_bytes <- payload` (rules R94, R120). -/
def latchPayload (n : Len) (payload : List Byte) (s : State) : State := { s with opN := n, opBytes := payload }

/-- The value of a status register: a view of the state (rules R35, R36). RXRCUR while the read cursor is uninitialized is a
value drawn afresh: the free value number `draws` (rule R183, decision D44). -/
def State.statusReg (s : State) : StatusReg → Word
  | .status => s.statusWord
  | .txlen => zext32 s.txLen
  | .rxwcur => BitVec.ofNat 32 (rxAddr s.par s.rxWcur.toNat)
  | .rxrcur => if s.rcurValid then BitVec.ofNat 32 (rxAddr s.par s.rcur.toNat) else Config.rxrcurDraw s.draws
  | .captx => BitVec.ofNat 32 s.par.cTx
  | .caprx => BitVec.ofNat 32 s.par.cRx

/-- A read of RXRCUR while the read cursor is uninitialized uses one draw; no other read does. -/
def spendDraw (r : StatusReg) (s : State) : State :=
  if r = .rxrcur ∧ s.rcurValid = false then { s with draws := s.draws + 1 } else s

end Sys2Proof.Machine
end

