-- ==== Sys2Proof/Machine/Rx.lean ====
section
/-! DEFINITION. The RX family: DRAIN and its phases D1 to D4, RXSTART and RXBYTE (`41_rx_drain.md`, rules R154 to R160). -/

namespace Sys2Proof.Machine

/-- A cursor built from a value and handed on: `CursorInvalid(v)` where it is out of range (rule R150). -/
def withCursor (v : Nat) (s : State) (k : Len → Result) : Result :=
  match mkCursor s.par v with
  | some c => k (len c)
  | none => raise .cursorInvalid v s

/-- The cursor of a channel address, handed on: `CursorInvalid(addr)` where the address is no element's (rules R62, R153). -/
def withChannelCursor (addr : Nat) (s : State) (k : Len → Result) : Result :=
  match rxOff s.par addr with
  | some off => withCursor off s k
  | none => raise .cursorInvalid addr s

/-- DRAIN, acceptance (rule R154). -/
def execDrain (s : State) : Result := accept s (requireCfg 0x3 s (.next { s with ph := .d1 }))

/-- Phase D1: initialize the read cursor on the first call; hold until RXSTART (rule R155). -/
def phaseD1 (s : State) : Result :=
  if s.rcurValid then .next { s with ph := .d2 }
  else if s.rxStarted then withCursor 0 s (fun c => .next { s with rcur := c, rcurValid := true, ph := .d2 })
  else .next s

/-- Phase D2: one snapshot of the hardware write cursor, read through the channel (rule R156). -/
def phaseD2 (s : State) : Result :=
  withChannelCursor (rxAddr s.par s.rxWcur.toNat) s (fun c => .next { s with snap := c, ph := .d3 })

/-- Phase D3: compare the cursor with the snapshot and choose the first run (rule R157). -/
def phaseD3 (s : State) : Result :=
  if s.rcur = s.snap then .next (respondDrain 0 { s with dcnt := 0, ph := .idle })
  else if s.rcur.toNat < s.snap.toNat then .next { s with dcnt := 0, dptr := s.rcur, dend := s.snap, ph := .d4 }
  else .next { s with dcnt := 0, dptr := s.rcur, dend := len s.par.cRx, ph := .d4 }

/-- Phase D4: copy one byte, or close a run (rule R158). -/
def phaseD4 (s : State) : Result :=
  if s.dptr.toNat < s.dend.toNat then
    memRead (rxAddr s.par s.dptr.toNat) s
      (fun v => .next (emitDrain v { s with dptr := len (s.dptr.toNat + 1), dcnt := len (s.dcnt.toNat + 1) }))
  else if s.dend = s.snap then
    withCursor s.snap.toNat s (fun c => .next (respondDrain s.dcnt { s with rcur := c, ph := .idle }))
  else withCursor 0 s (fun c => .next { s with rcur := c, dptr := 0, dend := s.snap })

/-- RXSTART: the hardware signals that its first segment has started (rule R159). -/
def execRxstart (s : State) : Result := stepWhen (s.cfg && !s.rxStarted) s (.next { s with rxStarted := true })

/-- RXBYTE: the hardware writes one received byte and advances its cursor (rule R160). -/
def execRxbyte (b : Byte) (s : State) : Result :=
  stepWhen s.rxStarted s
    (memWrite (rxAddr s.par s.rxWcur.toNat) b s
      (fun t => .next (emitWireIn b { t with rxWcur := len (advance t.par t.rxWcur.toNat 1) })))

end Sys2Proof.Machine
end

