-- ==== Sys2Proof/Machine/Tx.lean ====
section
/-! DEFINITION. The TX family: SUBMIT and its phases S1 to S6, TXSEND and TXDONE (`40_tx_submit.md`, rules R120 to R128). -/

namespace Sys2Proof.Machine

/-- SUBMIT, acceptance (rule R120). -/
def execSubmit (n : Len) (payload : List Byte) (s : State) : Result :=
  accept s (requireCfg 0x2 s (.next { latchPayload n payload s with ph := .s1 }))

/-- Phase S1: check the capacity and sample the active length (rule R121). -/
def phaseS1 (s : State) : Result :=
  if s.opN.toNat = 0 then .refused .zeroLength
  else if s.par.cTx < s.opN.toNat then .next (respondCapacityExceeded s)
  else if s.txActive = true ∧ s.par.cTx - s.activeLength.toNat < s.opN.toNat then .next (respondCapacityExceeded s)
  else .next { s with sL := s.activeLength, ph := .s2 }

/-- Phase S2: copy the payload behind the window (rule R122). -/
def phaseS2 (s : State) : Result := copyPayload s.sL.toNat s (fun t => .next { t with ph := .s3 })

/-- Phase S3: enter the critical section (rule R123). -/
def phaseS3 (s : State) : Result := .next { setMask true s with csSaved := s.irqMask, ph := .s4 }

/-- Phase S4: extend the committed length (rule R124). -/
def phaseS4 (s : State) : Result := .next { s with txLen := len (s.sL.toNat + s.opN.toNat), ph := .s5 }

/-- Phase S5: leave the critical section and re-check the activity (rule R125). -/
def phaseS5 (s : State) : Result :=
  if s.txActive then .next (respondSubmitted { setMask s.csSaved s with ph := .idle })
  else .next { setMask s.csSaved s with ph := .s6 }

/-- Phase S6: start a new transfer of the payload from the origin (rule R126). -/
def phaseS6 (s : State) : Result :=
  copyPayload 0 s (fun t => .next (respondSubmitted { configure (txDescriptor t.par t.opN) t with ph := .idle }))

/-- TXSEND is enabled (rules R127, R130). -/
def State.canSend (s : State) : Bool :=
  s.txActive && decide (s.txSent.toNat < s.txLen.toNat) && !(s.par.arbAtomic && s.ph == .s5)

/-- TXSEND: the engine sends one byte (rule R127). -/
def execTxsend (s : State) : Result :=
  stepWhen s.canSend s
    (memRead (txAddr s.par s.txSent.toNat) s
      (fun v => .next (emitWireOut v { s with txSent := len (s.txSent.toNat + 1) })))

/-- TXDONE is enabled (rule R128). -/
def State.canComplete (s : State) : Bool := s.txActive && s.txSent == s.txLen

/-- TXDONE: the engine completes and disables the transfer (rule R128). -/
def execTxdone (s : State) : Result :=
  stepWhen s.canComplete s (.next { s with txActive := false, txLen := 0, txSent := 0, irqPend := true })

end Sys2Proof.Machine
end

