-- ==== Sys2Proof/Machine/System.lean ====
section
/-! DEFINITION. The system family: INIT, CSENTER, CSEXIT, RDREG, SEQ and the interrupt delivery IRQTAKE (`42_system.md`, rules R180 to R184; `60_exceptions.md`, rule R205). -/

namespace Sys2Proof.Machine

/-- INIT: bring-up (rule R180). -/
def execInit (s : State) : Result :=
  accept s
    (if s.cfg then .refused .doubleInit
     else .next (respond 0 0
      { configure (rxDescriptor s.par) { s with txActive := false, txLen := 0, txSent := 0 } with
        rcurValid := false, irqPend := false, cfg := true }))

/-- CSENTER: enter the critical section; the response is the prior mask (rule R181). -/
def execCsenter (s : State) : Result :=
  accept s (.next (setMask true (respond 0 (BitVec.ofNat 32 s.irqMask.toNat) s)))

/-- CSEXIT: restore the mask handed back (rule R182). -/
def execCsexit (m : Bool) (s : State) : Result := accept s (.next (respond 0 0 (setMask m s)))

/-- RDREG: read a status register (rule R183). -/
def execRdreg (r : StatusReg) (s : State) : Result :=
  accept s (.next (respond 0 (s.statusReg r) (spendDraw r s)))

/-- SEQ: one sequencer step, the rule of the phase `ph` (rule R184). At IDLE the sequencer has no step. -/
def execSeq (s : State) : Result :=
  unlessFaulted s
    (match s.ph with
     | .idle => .next s
     | .s1 => phaseS1 s
     | .s2 => phaseS2 s
     | .s3 => phaseS3 s
     | .s4 => phaseS4 s
     | .s5 => phaseS5 s
     | .s6 => phaseS6 s
     | .d1 => phaseD1 s
     | .d2 => phaseD2 s
     | .d3 => phaseD3 s
     | .d4 => phaseD4 s
     | .reserved7 | .reserved12 | .reserved13 | .reserved14 | .reserved15 => .refused .reservedPhase)

/-- IRQTAKE: the completion signal is delivered (rule R205). -/
def execIrqtake (s : State) : Result := stepWhen s.irqLine s (.next (emitIrq { s with irqPend := false }))

end Sys2Proof.Machine
end

