-- ==== Sys2Proof/Machine/Dispatch.lean ====
section
/-! DEFINITION. The one dispatch: an arm per constructor of Instr, each one call of its meaning. -/

namespace Sys2Proof.Machine

def exec (i : Instr) (s : State) : Host.Outcome State Fault Refusal :=
  match i with
  -- commands, taken by REQ
  | .init => Sys2Proof.Machine.execInit s
  | .submit n payload => Sys2Proof.Machine.execSubmit n payload s
  | .drain => Sys2Proof.Machine.execDrain s
  | .csenter => Sys2Proof.Machine.execCsenter s
  | .csexit m => Sys2Proof.Machine.execCsexit m s
  | .rdreg r => Sys2Proof.Machine.execRdreg r s
  -- labels: the autonomous steps of RXE, TXE, IRQ and SEQ
  | .rxbyte b => Sys2Proof.Machine.execRxbyte b s
  | .rxstart => Sys2Proof.Machine.execRxstart s
  | .txsend => Sys2Proof.Machine.execTxsend s
  | .txdone => Sys2Proof.Machine.execTxdone s
  | .irqtake => Sys2Proof.Machine.execIrqtake s
  | .seq => Sys2Proof.Machine.execSeq s

end Sys2Proof.Machine
end

