-- ==== Sys2Proof/WellFormed.lean ====
section
/-! DEFINITION. The well-formed instructions: those a step word, with the payload that follows it, stands for (rules R93, R94). -/

namespace Sys2Proof

/-- A SUBMIT carries exactly `n` payload bytes (rule R94). Every other operand is in range by its type. -/
def Instr.wellFormed : Instr → Bool
  | .submit n payload => payload.length == n.toNat
  | .init => true
  | .drain => true
  | .csenter => true
  | .csexit _ => true
  | .rdreg _ => true
  | .rxbyte _ => true
  | .rxstart => true
  | .txsend => true
  | .txdone => true
  | .irqtake => true
  | .seq => true

end Sys2Proof
end

