-- ==== Sys2Proof/Decode.lean ====
section
/-! DEFINITION. Decoding and encoding of the step word (rules R90 to R94, R97), total on every 32-bit word with the bytes that follow it, rejecting by name. -/

namespace Sys2Proof

/-! ## The fields of the step word (rule R91) -/

/-- `opc = w[31:28]`. -/
def opcOf (w : Word) : BitVec 4 := w.extractLsb' 28 4

/-- `rsv = w[27:24]`, must be 0 in every word. -/
def rsvOf (w : Word) : BitVec 4 := w.extractLsb' 24 4

/-- `b = w[23:16]`. -/
def bOf (w : Word) : Byte := w.extractLsb' 16 8

/-- `n = w[15:0]`. -/
def nOf (w : Word) : Len := w.extractLsb' 0 16

/-- Labels have `opc[3] = 1`, commands `opc[3] = 0` (rule R92). -/
def isLabelWord (w : Word) : Bool := w.getLsbD 31

/-! ## The operands -/

/-- The register a number names; 6 and 7 are reserved (rules R35, R97). -/
def statusRegOf (n : Len) : Option StatusReg :=
  if n = 0 then some .status
  else if n = 1 then some .txlen
  else if n = 2 then some .rxwcur
  else if n = 3 then some .rxrcur
  else if n = 4 then some .captx
  else if n = 5 then some .caprx
  else none

/-- The number of a status register (rule R35). -/
def statusRegNumber : StatusReg → Len
  | .status => 0
  | .txlen => 1
  | .rxwcur => 2
  | .rxrcur => 3
  | .captx => 4
  | .caprx => 5

/-- `ps` holds exactly `n` bytes. -/
def holdsExactly : Nat → List Byte → Bool
  | 0, [] => true
  | 0, _ :: _ => false
  | _ + 1, [] => false
  | n + 1, _ :: ps => holdsExactly n ps

/-- No word but SUBMIT has a payload (rule R94). -/
def withoutPayload (ps : List Byte) (i : Instr) : Except DecodeError Instr :=
  if ps = [] then .ok i else .error .payloadLength

/-- A word with no operand: `b` and `n` must be 0 (rule R91). -/
def withoutOperand (w : Word) (ps : List Byte) (i : Instr) : Except DecodeError Instr :=
  if bOf w ≠ 0 then .error .nonzeroB
  else if nOf w ≠ 0 then .error .nonzeroN
  else withoutPayload ps i

/-- SUBMIT: `n` is all of `w[15:0]`, and exactly `n` bytes follow the word (rules R91, R93, R94). -/
def decodeSubmit (w : Word) (ps : List Byte) : Except DecodeError Instr :=
  if bOf w ≠ 0 then .error .nonzeroB
  else if holdsExactly (nOf w).toNat ps then .ok (.submit (nOf w) ps)
  else .error .payloadLength

/-- CSEXIT: `m = n[0]`, and `n[15:1]` must be 0 (rule R91). -/
def decodeCsexit (w : Word) (ps : List Byte) : Except DecodeError Instr :=
  if bOf w ≠ 0 then .error .nonzeroB
  else if nOf w = 0 then withoutPayload ps (.csexit false)
  else if nOf w = 1 then withoutPayload ps (.csexit true)
  else .error .nonzeroN

/-- RDREG: `r = n[2:0]`, `n[15:3]` must be 0, and 6 and 7 are reserved (rules R91, R97). -/
def decodeRdreg (w : Word) (ps : List Byte) : Except DecodeError Instr :=
  if bOf w ≠ 0 then .error .nonzeroB
  else if 8 ≤ (nOf w).toNat then .error .nonzeroN
  else match statusRegOf (nOf w) with
    | some r => withoutPayload ps (.rdreg r)
    | none => .error .reservedRegister

/-- RXBYTE: `b` is the byte, `n` must be 0 (rule R91). -/
def decodeRxbyte (w : Word) (ps : List Byte) : Except DecodeError Instr :=
  if nOf w ≠ 0 then .error .nonzeroN
  else withoutPayload ps (.rxbyte (bOf w))

/-! ## The decoder -/

/-- The instruction a step word stands for, with the bytes that follow it (rules R91, R92, R97). -/
def decode (w : Word) (ps : List Byte) : Except DecodeError Instr :=
  if rsvOf w ≠ 0 then .error .nonzeroRsv
  else if opcOf w = 0x1 then withoutOperand w ps .init
  else if opcOf w = 0x2 then decodeSubmit w ps
  else if opcOf w = 0x3 then withoutOperand w ps .drain
  else if opcOf w = 0x4 then withoutOperand w ps .csenter
  else if opcOf w = 0x5 then decodeCsexit w ps
  else if opcOf w = 0x6 then decodeRdreg w ps
  else if opcOf w = 0x8 then decodeRxbyte w ps
  else if opcOf w = 0x9 then withoutOperand w ps .rxstart
  else if opcOf w = 0xA then withoutOperand w ps .txsend
  else if opcOf w = 0xB then withoutOperand w ps .txdone
  else if opcOf w = 0xC then withoutOperand w ps .irqtake
  else if opcOf w = 0xF then withoutOperand w ps .seq
  else .error .reservedOpcode

/-- What the command port accepts: a label word there is rejected (rule R97). -/
def decodeCommand (w : Word) (ps : List Byte) : Except DecodeError Instr :=
  if isLabelWord w then .error .labelOnCommandPort else decode w ps

/-- A payload of zeros as long as a word asks for: `n` bytes for SUBMIT, none for the others (rule R94). -/
def zeroPayload (w : Word) : List Byte :=
  if opcOf w = 0x2 then List.replicate (nOf w).toNat 0 else []

/-- What names an autonomous step: a label word (rule R90). An illegal word is rejected as in any other place, whatever its bit 31
(rule R97). DESIGN CHOICE (log entry 6): a legal command word, to which the spec gives no meaning in the place of a label, is
rejected as `commandAsLabel`. -/
def decodeLabel (w : Word) : Except DecodeError Instr :=
  if isLabelWord w then decode w []
  else match decode w (zeroPayload w) with
    | .ok _ => .error .commandAsLabel
    | .error e => .error e

/-! ## The encoder -/

/-- The step word with the given `opc`, `b` and `n`, `rsv` being 0 (rule R90). -/
def mkWord (o : BitVec 4) (b : Byte) (n : Len) : Word := o ++ 0#4 ++ b ++ n

/-- The `opc` of a row (rule R92). -/
def opcode : Instr → BitVec 4
  | .init => 0x1
  | .submit _ _ => 0x2
  | .drain => 0x3
  | .csenter => 0x4
  | .csexit _ => 0x5
  | .rdreg _ => 0x6
  | .rxbyte _ => 0x8
  | .rxstart => 0x9
  | .txsend => 0xA
  | .txdone => 0xB
  | .irqtake => 0xC
  | .seq => 0xF

/-- Field `b` of an instruction's word (rule R91). -/
def operandB : Instr → Byte
  | .rxbyte b => b
  | .init | .submit _ _ | .drain | .csenter | .csexit _ | .rdreg _ => 0
  | .rxstart | .txsend | .txdone | .irqtake | .seq => 0

/-- Field `n` of an instruction's word (rule R91). -/
def operandN : Instr → Len
  | .submit n _ => n
  | .csexit m => if m then 1 else 0
  | .rdreg r => statusRegNumber r
  | .init | .drain | .csenter | .rxbyte _ => 0
  | .rxstart | .txsend | .txdone | .irqtake | .seq => 0

/-- The bytes that follow an instruction's word (rule R94). -/
def payloadOf : Instr → List Byte
  | .submit _ ps => ps
  | .init | .drain | .csenter | .csexit _ | .rdreg _ | .rxbyte _ => []
  | .rxstart | .txsend | .txdone | .irqtake | .seq => []

/-- The step word of an instruction; its payload is `payloadOf`. -/
def encode (i : Instr) : Word := mkWord (opcode i) (operandB i) (operandN i)

/-! ## The opcode map as the spec prints it -/

/-- A row of rule R92's table: its word is selected when `w & mask = match`. -/
structure OpcodeRow where
  mnemonic : String
  matchBits : Word
  mask : Word
  deriving DecidableEq, Repr

/-- The row of rule R92's table an instruction belongs to. -/
def opcodeRow : Instr → OpcodeRow
  | .init => ⟨"INIT", 0x10000000, 0xFFFFFFFF⟩
  | .submit _ _ => ⟨"SUBMIT", 0x20000000, 0xFFFF0000⟩
  | .drain => ⟨"DRAIN", 0x30000000, 0xFFFFFFFF⟩
  | .csenter => ⟨"CSENTER", 0x40000000, 0xFFFFFFFF⟩
  | .csexit _ => ⟨"CSEXIT", 0x50000000, 0xFFFFFFFE⟩
  | .rdreg _ => ⟨"RDREG", 0x60000000, 0xFFFFFFF8⟩
  | .rxbyte _ => ⟨"RXBYTE", 0x80000000, 0xFF00FFFF⟩
  | .rxstart => ⟨"RXSTART", 0x90000000, 0xFFFFFFFF⟩
  | .txsend => ⟨"TXSEND", 0xA0000000, 0xFFFFFFFF⟩
  | .txdone => ⟨"TXDONE", 0xB0000000, 0xFFFFFFFF⟩
  | .irqtake => ⟨"IRQTAKE", 0xC0000000, 0xFFFFFFFF⟩
  | .seq => ⟨"SEQ", 0xF0000000, 0xFFFFFFFF⟩

/-- A word selects a row (rule R92). -/
def OpcodeRow.selects (r : OpcodeRow) (w : Word) : Bool := w &&& r.mask == r.matchBits

/-- The agent whose step an instruction is (rules R5, R92). -/
def agentOf : Instr → Agent
  | .init | .submit _ _ | .drain | .csenter | .csexit _ | .rdreg _ => .req
  | .rxbyte _ | .rxstart => .rxe
  | .txsend | .txdone => .txe
  | .irqtake => .irq
  | .seq => .seq

/-! ## A table row's word -/

/-- The step word whose bits are the low `nbits` bits of `w`. -/
def tableWord (nbits w : Nat) : Word := BitVec.ofNat 32 (w % 2 ^ nbits)

/-- What the decoder reads from a table row's word followed by zeros. -/
def decodeTableWord (nbits w : Nat) : Option Instr :=
  match decode (tableWord nbits w) (zeroPayload (tableWord nbits w)) with
  | .ok i => some i
  | .error _ => none

end Sys2Proof
end

