-- ==== Sys2Proof/Machine/Inputs.lean ====
section
/-! DEFINITION. How the machine takes its next step word from its inputs: the command port (rules R94, R97, R185) and the label the schedule names (rule R90). -/

namespace Sys2Proof.Machine

/-- The refusal a rejected word answers: `IllegalCommand` for the cases of rule R97, the model's own for a presentation the
spec does not describe (log entry 6). -/
def refusalOf : DecodeError → Refusal
  | .payloadLength => .badPresentation .payloadLength
  | .commandAsLabel => .badPresentation .commandAsLabel
  | .reservedOpcode => .illegalCommand .reservedOpcode
  | .nonzeroRsv => .illegalCommand .nonzeroRsv
  | .nonzeroB => .illegalCommand .nonzeroB
  | .nonzeroN => .illegalCommand .nonzeroN
  | .reservedRegister => .illegalCommand .reservedRegister
  | .labelOnCommandPort => .illegalCommand .labelOnCommandPort

/-- What the decoder answered, run on a state or refused. -/
def runDecoded (d : Except DecodeError Instr) (run : Instr → State → Result) (s : State) : Result :=
  match d with
  | .ok i => run i s
  | .error e => .refused (refusalOf e)

/-- The state once the turn at the head of the schedule has been used. -/
def takeTurn (s : State) : State := { s with sched := s.sched.tail }

/-- The state once the presentation at the head of the port has been taken. -/
def takePresented (s : State) : State := { s with port := s.port.tail }

/-- The requester's turn. REQ has a step only at `ph = IDLE` and with something to present: else the turn passes and the
presentation stays on the port (rule R185). -/
def requesterTurn (run : Instr → State → Result) (s : State) : Result :=
  match s.port with
  | [] => .next s
  | c :: _ =>
    if s.ph = .idle then runDecoded (decodeCommand c.word c.payload) run (takePresented s)
    else .next s

/-- The turn of the agent a label word names (rule R90). -/
def labelTurn (run : Instr → State → Result) (w : Word) (s : State) : Result := runDecoded (decodeLabel w) run s

/-- One turn of the schedule. With none left no agent moves (log entry 3). -/
def takeStep (run : Instr → State → Result) (s : State) : Result :=
  match s.sched with
  | [] => .next s
  | .req :: _ => requesterTurn run (takeTurn s)
  | .label w :: _ => labelTurn run w (takeTurn s)

/-- The state with a presentation placed where the requester's next turn takes it, and that turn next. -/
def offerCommand (w : Word) (payload : List Byte) (s : State) : State :=
  { s with port := ⟨w, payload⟩ :: s.port, sched := .req :: s.sched }

/-- The state with the turn of a label next. -/
def offerLabel (w : Word) (s : State) : State := { s with sched := .label w :: s.sched }

/-- The state with a step word placed where the next step takes it: a command word, its payload bytes zero, on the port with the
requester's turn; a label word as the next turn. -/
def offerWord (w : Word) (s : State) : State :=
  if isLabelWord w then offerLabel w s else offerCommand w (zeroPayload w) s

end Sys2Proof.Machine
end

