-- ==== Sys2Proof/Machine/Step.lean ====
section
/-! DEFINITION. One step of the machine: the parameters are checked (rules R7, R203), a recorded fault stops it (rule R202), and the next turn of the schedule is taken. -/

namespace Sys2Proof.Machine

/-- One step. A configuration that breaks rule R7 is refused before anything else; the parameters never change, so checking at
every step is checking before the first (rule R242). -/
def step (s : State) : Host.Outcome State Fault Refusal :=
  if paramsOk s.par then unlessFaulted s (takeStep exec s) else .refused .badConfig

/-- The state with the step word of a table row placed where the next step takes it. -/
def State.withFetchWord (s : State) (nbits w : Nat) : State := offerWord (tableWord nbits w) s

end Sys2Proof.Machine
end

