-- ==== Sys2Proof/Safety.lean ====
section
/-! DEFINITION. The terms claims are stated in: the invariants of the block (rule R40), the premises NoSendInCommitWindow and NoLap (rules R130, R161), what the streams account for (rules R131, R161), final states (rule R244), and a command run with no other agent's step inside it (rules R99, R136, R164). -/

namespace Sys2Proof.Machine

/-! ## The invariants -/

/-- TX side: I1, I2, I5, I6 of rule R40. -/
structure TxInv (s : State) : Prop where
  /-- I1: the committed length never exceeds `C_tx`. -/
  lenBound : s.txLen.toNat ≤ s.par.cTx
  /-- I2: the engine never passes the committed length. -/
  sentBound : s.txActive = true → s.txSent.toNat ≤ s.txLen.toNat
  /-- I5: the window holds values. -/
  windowFilled : s.txActive = true → ∀ k < s.txLen.toNat, (s.txbuf k).isSome = true
  /-- I6: an idle transmitter has length 0, outside the fallback window. -/
  idleLen : s.txActive = false → s.ph ≠ .s5 → s.ph ≠ .s6 → s.txLen = 0
  /-- I6: an idle transmitter's engine is at the origin. -/
  idleSent : s.txActive = false → s.txSent = 0
  /-- Only a configured block transmits. -/
  activeCfg : s.txActive = true → s.cfg = true

/-- The phase is one of a SUBMIT (rule R33). -/
def Phase.inSubmit : Phase → Bool
  | .s1 | .s2 | .s3 | .s4 | .s5 | .s6 => true
  | .idle | .d1 | .d2 | .d3 | .d4 => false
  | .reserved7 | .reserved12 | .reserved13 | .reserved14 | .reserved15 => false

/-- The sequencer inside a SUBMIT: I8 of rule R40 and what the phases leave for one another (rules R121 to R126). -/
structure SubmitInv (s : State) : Prop where
  /-- While a SUBMIT is in progress the latched payload has the latched length (rule R94). -/
  payload : s.ph.inSubmit = true → s.opBytes.length = s.opN.toNat
  /-- After S1 the count is positive and fits the buffer. -/
  count : s.ph = .s2 ∨ s.ph = .s3 ∨ s.ph = .s4 ∨ s.ph = .s5 ∨ s.ph = .s6 → 0 < s.opN.toNat ∧ s.opN.toNat ≤ s.par.cTx
  /-- After S1 the payload fits behind the sampled window. -/
  fits : s.ph = .s2 ∨ s.ph = .s3 ∨ s.ph = .s4 ∨ s.ph = .s5 → s.sL.toNat + s.opN.toNat ≤ s.par.cTx
  /-- Up to S4 a transfer still active has the length sampled at S1. -/
  sampled : s.ph = .s2 ∨ s.ph = .s3 ∨ s.ph = .s4 → s.txActive = true → s.sL = s.txLen
  /-- From S2 to S4 the payload lies behind the window. -/
  copied : s.ph = .s3 ∨ s.ph = .s4 → ∀ k, (h : k < s.opBytes.length) → s.txbuf (s.sL.toNat + k) = some s.opBytes[k]
  /-- At S5 a transfer still active has the extended length. -/
  extended : s.ph = .s5 → s.txActive = true → s.txLen.toNat = s.sL.toNat + s.opN.toNat
  /-- S6 is reached only with no transfer active. -/
  restart : s.ph = .s6 → s.txActive = false
  /-- I8: the signal is masked at S4 and S5. -/
  masked : s.ph = .s4 ∨ s.ph = .s5 → s.irqMask = true

/-- The bytes a DRAIN at phase D4 has still to copy. -/
def State.runLeft (s : State) : Nat :=
  if s.dend = s.snap then s.snap.toNat - s.dptr.toNat else s.par.cRx - s.dptr.toNat + s.snap.toNat

/-- RX side: I3, I4, I7 of rule R40, and what the phases of DRAIN leave for one another (rules R155 to R158). -/
structure RxInv (s : State) : Prop where
  /-- I3: the read cursor is a cursor. -/
  rcurBound : s.rcurValid = true → s.rcur.toNat < s.par.cRx
  /-- I4: the write cursor is a cursor. -/
  wcurBound : s.rxWcur.toNat < s.par.cRx
  /-- I7: an initialized read cursor means a started channel. -/
  validStarted : s.rcurValid = true → s.rxStarted = true
  /-- Only a configured block receives. -/
  startedCfg : s.rxStarted = true → s.cfg = true
  /-- After D1 the read cursor is initialized. -/
  drainValid : s.ph = .d2 ∨ s.ph = .d3 ∨ s.ph = .d4 → s.rcurValid = true
  /-- After D2 the snapshot is a cursor. -/
  snapBound : s.ph = .d3 ∨ s.ph = .d4 → s.snap.toNat < s.par.cRx
  /-- At D4 the run ends at the snapshot or at the buffer end. -/
  runEnd : s.ph = .d4 → s.dend = s.snap ∨ s.dend.toNat = s.par.cRx
  /-- At D4 the copy is inside its run. -/
  runPtr : s.ph = .d4 → s.dptr.toNat ≤ s.dend.toNat
  /-- A DRAIN copies at most `C_rx - 1` bytes. -/
  runCount : s.ph = .d4 → s.dcnt.toNat + s.runLeft < s.par.cRx
  /-- Every element below the write cursor holds a value. -/
  written : ∀ k < s.rxWcur.toNat, (s.rxbuf k).isSome = true
  /-- Every element holds a value, or no cursor has wrapped yet. -/
  wrapped : (∀ k < s.par.cRx, (s.rxbuf k).isSome = true) ∨
    ((s.rcurValid = true → s.rcur.toNat ≤ s.rxWcur.toNat) ∧
      (s.ph = .d3 ∨ s.ph = .d4 → s.snap.toNat ≤ s.rxWcur.toNat ∧ s.rcur.toNat ≤ s.snap.toNat) ∧
      (s.ph = .d4 → s.dend = s.snap))

/-- The phase is one the rules write (rule R33). -/
def Phase.legal : Phase → Bool
  | .idle | .s1 | .s2 | .s3 | .s4 | .s5 | .s6 | .d1 | .d2 | .d3 | .d4 => true
  | .reserved7 | .reserved12 | .reserved13 | .reserved14 | .reserved15 => false

/-- What every reachable state meets: rule R40's I1 to I8, the canonical form of memory, and the relations between the working
registers that make them inductive. -/
structure Inv (s : State) : Prop where
  params : paramsOk s.par = true
  memWf : s.mem.wf
  memMapped : ∀ c ∈ s.mem, isElement s.par c.1 = true
  legal : s.ph.legal = true
  busyCfg : s.ph ≠ .idle → s.cfg = true
  tx : TxInv s
  submit : SubmitInv s
  rx : RxInv s

/-! ## The account of the transmitted bytes -/

/-- The bytes of the window the engine has still to send: `txbuf[tx_sent .. tx_len - 1]`. -/
def State.unsent (s : State) : List (Option Byte) :=
  (List.range' s.txSent.toNat (s.txLen.toNat - s.txSent.toNat)).map s.txbuf

/-- The bytes owed to the wire: the accepted payloads, and at S5 the payload already appended to a live transfer. -/
def State.owed (s : State) : List Byte :=
  if s.ph = .s5 ∧ s.txActive = true then s.obs.accepted ++ s.opBytes else s.obs.accepted

/-- Exactly once (rule R131): what was sent and what the window still holds is what is owed; in the commit window the engine has
not reached the new bytes. -/
structure TxAccount (s : State) : Prop where
  active : s.txActive = true → s.obs.wireOut.map some ++ s.unsent = s.owed.map some
  idle : s.txActive = false → s.obs.wireOut = s.obs.accepted
  window : s.ph = .s5 → s.txActive = true → s.txSent.toNat ≤ s.sL.toNat

/-- The next turn is a TXSEND that the engine takes inside the commit window: what the premise NoSendInCommitWindow excludes
(rules R130, R246). -/
def State.sendsInCommitWindow (s : State) : Bool :=
  match s.sched with
  | .label w :: _ => (match decodeLabel w with | .ok .txsend => true | _ => false) && s.ph == .s5 && s.canSend
  | .req :: _ => false
  | [] => false

/-! ## The account of the received bytes -/

/-- The bytes of a drain stream, in order. -/
def drained : List DrainItem → List Byte
  | [] => []
  | .byte b :: ds => b :: drained ds
  | .close :: ds => drained ds

/-- What one more entry of the drain stream does to the counts of returned bytes and of bytes copied by an open DRAIN. -/
def tallyItem (c : Nat × Nat) : DrainItem → Nat × Nat
  | .byte _ => (c.1, c.2 + 1)
  | .close => (c.1 + c.2, 0)

/-- The bytes the finished DRAINs of a stream returned, and those an open one has copied. -/
def tally (ds : List DrainItem) : Nat × Nat := ds.foldl tallyItem (0, 0)

/-- `A` of rule R161: how many bytes have arrived. -/
def State.arrived (s : State) : Nat := s.obs.wireIn.length

/-- `R` of rule R161: the total of the counts returned. -/
def State.returned (s : State) : Nat := (tally s.obs.drainOut).1

/-- The bytes the DRAIN in progress has copied. -/
def State.copying (s : State) : Nat := (tally s.obs.drainOut).2

/-- The premise NoLap: at most `C_rx - 1` bytes have arrived and were not returned (rules R161, R245). -/
def State.noLap (s : State) : Bool := decide (s.arrived < s.returned + s.par.cRx)

/-- What the DRAIN in progress will have returned in all, by its snapshot. -/
def State.target (s : State) : Nat := s.returned + unread s.par s.snap.toNat (s.returned % s.par.cRx)

/-- In arrival order (rule R161): the bytes drained are the first that arrived, the cursors are the counts modulo `C_rx`, and the
buffer holds the bytes not yet returned. -/
structure RxAccount (s : State) : Prop where
  wcur : s.rxWcur.toNat = s.arrived % s.par.cRx
  inOrder : drained s.obs.drainOut = s.obs.wireIn.take (s.returned + s.copying)
  drainedLe : s.returned + s.copying ≤ s.arrived
  notStarted : s.cfg = false → s.arrived = 0
  notValid : s.rcurValid = false → s.returned = 0 ∧ s.copying = 0
  rcur : s.rcurValid = true → s.ph ≠ .d4 → s.rcur.toNat = s.returned % s.par.cRx
  notCopying : s.ph ≠ .d4 → s.copying = 0
  count : s.ph = .d4 → s.copying = s.dcnt.toNat
  lastRun : s.ph = .d4 → s.dend = s.snap → s.dptr.toNat = (s.returned + s.copying) % s.par.cRx
  tailRun : s.ph = .d4 → s.dend ≠ s.snap →
    s.dptr.toNat = s.returned % s.par.cRx + s.copying ∧ s.snap.toNat < s.returned % s.par.cRx
  snapshot : s.ph = .d3 ∨ s.ph = .d4 → s.returned + s.copying ≤ s.target ∧ s.target ≤ s.arrived
  contents : ∀ k, (h : k < s.obs.wireIn.length) → s.arrived ≤ k + s.par.cRx → s.rxbuf (k % s.par.cRx) = some s.obs.wireIn[k]

/-! ## The end of a run -/

/-- A final state (rule R244); that no refusal occurred is a fact about the run. -/
def State.isFinal (s : State) : Bool :=
  s.flt == .noFault && s.ph == .idle && !s.txActive && (!s.irqPend || s.irqMask)

/-! ## A command with no interleaving -/

/-- `k` sequencer steps; at IDLE a step changes nothing, so more of them than a command needs do no harm (rule R99). -/
def runSeq : Nat → State → Result
  | 0, s => .next s
  | k + 1, s =>
    match exec .seq s with
    | .next t => runSeq k t
    | .fault r => .fault r
    | .refused r => .refused r

/-- A command followed by `k` sequencer steps. -/
def runCommand (i : Instr) (k : Nat) (s : State) : Result :=
  match exec i s with
  | .next t => runSeq k t
  | .fault r => .fault r
  | .refused r => .refused r

/-- The state less the working registers of SUBMIT, which nothing reads outside the command that wrote them (rule R34). -/
def State.lessSubmit (s : State) : State := { s with opN := 0, opBytes := [], sL := 0, csSaved := false }

/-- The state less the working registers of DRAIN (rule R34). -/
def State.lessDrain (s : State) : State := { s with snap := 0, dptr := 0, dend := 0, dcnt := 0 }

/-- An accepted SUBMIT's response, payload and bytes in the buffer (rule R136). -/
def submitted (addr : Nat) (payload : List Byte) (s : State) : State :=
  storeRun addr payload
    { s with obs := { s.obs with rspLog := s.obs.rspLog ++ [⟨0, 0⟩], accepted := s.obs.accepted ++ payload } }

/-- `submit_atomic(n, bytes)` (rule R136). -/
def submitAtomic (payload : List Byte) (s : State) : Result :=
  if payload.length = 0 then .refused .zeroLength
  else if s.par.cTx < payload.length then .next (respond 1 0 s)
  else if s.txActive then
    if s.par.cTx - s.txLen.toNat < payload.length then .next (respond 1 0 s)
    else .next (submitted (txAddr s.par s.txLen.toNat) payload { s with txLen := len (s.txLen.toNat + payload.length) })
  else .next (submitted (txAddr s.par 0) payload { s with txLen := len payload.length, txSent := 0, txActive := true })

/-- The read cursor a DRAIN starts from: the origin on the first call (rules R155, R164). -/
def State.drainFrom (s : State) : Nat := if s.rcurValid then s.rcur.toNat else 0

/-- The elements a DRAIN copies: one linear run, or a tail run and a head run (rule R164). -/
def State.drainCells (s : State) : List (Option Byte) :=
  if s.drainFrom ≤ s.rxWcur.toNat then (List.range' s.drainFrom (s.rxWcur.toNat - s.drainFrom)).map s.rxbuf
  else (List.range' s.drainFrom (s.par.cRx - s.drainFrom)).map s.rxbuf ++ (List.range s.rxWcur.toNat).map s.rxbuf

/-- The state `drain_atomic()` leaves when it returns the bytes `out` (rule R164). -/
def drainReturned (out : List Byte) (s : State) : State :=
  { s with
    rcur := s.rxWcur, rcurValid := true
    obs := { s.obs with
      drainOut := s.obs.drainOut ++ out.map .byte ++ [.close]
      rspLog := s.obs.rspLog ++ [⟨0, BitVec.ofNat 32 out.length⟩] } }

/-! ## Progress -/

/-- How many sequencer steps a command in progress takes at most (rules R132, R255). -/
def State.stepsLeft (s : State) : Nat :=
  match s.ph with
  | .idle => 0
  | .s1 => 6
  | .s2 => 5
  | .s3 => 4
  | .s4 => 3
  | .s5 => 2
  | .s6 => 1
  | .d1 => s.par.cRx + 4
  | .d2 => s.par.cRx + 3
  | .d3 => s.par.cRx + 2
  | .d4 => s.runLeft + (if s.dend = s.snap then 1 else 2)
  | .reserved7 | .reserved12 | .reserved13 | .reserved14 | .reserved15 => 0

end Sys2Proof.Machine
end

