-- ==== Sys2Proof/Certificates/Slice0/Obligations.lean ====
section
/-! DEFINITION. The statements about the block, for the provers: each formalises what its docstring cites. -/

open Sys2Proof Sys2Proof.Machine

/-! ## Encoding -/

/-- Decoding an encoded well-formed instruction gives it back, with every operand at every value (rules R90 to R94). -/
def Obligations.DecodeOfEncodeReturnsTheInstruction : Prop :=
  ∀ i : Instr, i.wellFormed = true → decode (encode i) (payloadOf i) = .ok i

/-- A word that decodes is the encoding of what it decodes to, so no bit of it is dropped and no two presentations decode alike
(rules R91, R94). -/
def Obligations.DecodedWordIsTheEncoding : Prop :=
  ∀ (w : Word) (ps : List Byte) (i : Instr), decode w ps = .ok i →
    i.wellFormed = true ∧ encode i = w ∧ payloadOf i = ps

/-- R92: `match` and `mask` select the words of a row and no others; commands have `opc[3] = 0`, labels `opc[3] = 1`; the four
other values of `opc` are reserved. (Of RDREG's row the words of registers 6 and 7 are illegal by R97.) -/
def Obligations.OpcodeMapSelectsTheWords : Prop :=
  (∀ (w : Word) (ps : List Byte) (i : Instr), decode w ps = .ok i →
    w &&& (opcodeRow i).mask = (opcodeRow i).matchBits ∧ opcOf w = opcode i ∧ (isLabelWord w = true ↔ agentOf i ≠ .req)) ∧
  (∀ (w : Word) (i : Instr), w &&& (opcodeRow i).mask = (opcodeRow i).matchBits →
    ((opcodeRow i).mnemonic = "RDREG" → (nOf w).toNat < 6) →
      ∃ ps j, decode w ps = .ok j ∧ opcodeRow j = opcodeRow i) ∧
  (∀ (w : Word) (i j : Instr), w &&& (opcodeRow i).mask = (opcodeRow i).matchBits →
    w &&& (opcodeRow j).mask = (opcodeRow j).matchBits → opcodeRow i = opcodeRow j) ∧
  (∀ w : Word, (∃ i : Instr, opcOf w = opcode i) ↔ ¬ (opcOf w = 0x0 ∨ opcOf w = 0x7 ∨ opcOf w = 0xD ∨ opcOf w = 0xE))

/-- A word is illegal by R97, said by its fields: a reserved `opc`, a must-be-zero requirement of R91 broken, or RDREG of 6 or 7. An
illegal word is refused as IllegalCommand on the command port and in a label's turn, whatever its bit 31, and so is a label on the
port (the port and the schedule are the model's form of the inputs, log entry 3). -/
def Obligations.IllegalWordsAreRefused : Prop :=
  let illegal : Word → Prop := fun w =>
    opcOf w = 0x0 ∨ opcOf w = 0x7 ∨ opcOf w = 0xD ∨ opcOf w = 0xE ∨ rsvOf w ≠ 0 ∨ (opcOf w ≠ 0x8 ∧ bOf w ≠ 0) ∨
      (opcOf w ≠ 0x2 ∧ opcOf w ≠ 0x5 ∧ opcOf w ≠ 0x6 ∧ nOf w ≠ 0) ∨ (opcOf w = 0x5 ∧ 2 ≤ (nOf w).toNat) ∨
      (opcOf w = 0x6 ∧ 6 ≤ (nOf w).toNat)
  (∀ w : Word, illegal w ↔ ∀ ps i, decode w ps ≠ .ok i) ∧
  (∀ s c more turns, paramsOk s.par = true → s.flt = .noFault → s.ph = .idle → s.port = c :: more → s.sched = .req :: turns →
    illegal c.word ∨ isLabelWord c.word = true → ∃ e, step s = .refused (.illegalCommand e)) ∧
  (∀ s w turns, paramsOk s.par = true → s.flt = .noFault → s.sched = .label w :: turns → illegal w →
    ∃ e, step s = .refused (.illegalCommand e))

/-- Words written out from rule R92 decode to their instructions, and words that break rule R91 or R97 do not. -/
def Obligations.WrittenWordsDecode : Prop :=
  decode 0x10000000 [] = .ok .init ∧ decode 0x20000003 [0x41, 0x42, 0x43] = .ok (.submit 3 [0x41, 0x42, 0x43]) ∧
    decode 0x50000001 [] = .ok (.csexit true) ∧ decode 0x60000005 [] = .ok (.rdreg .caprx) ∧
    decode 0x80FF0000 [] = .ok (.rxbyte 0xFF) ∧ decode 0xC0000000 [] = .ok .irqtake ∧
    decode 0x80FF0001 [] = .error .nonzeroN ∧ decode 0x21000003 [1, 2, 3] = .error .nonzeroRsv ∧
    decode 0x60000006 [] = .error .reservedRegister ∧ decode 0xE0000000 [] = .error .reservedOpcode

/-! ## The step -/

/-- A step runs the decoded instruction: the requester's turn, at IDLE, takes the presentation at the head of the port; a label's
turn takes the step the label names (rules R90, R185). -/
def Obligations.StepRunsTheDecodedInstruction : Prop :=
  ∀ s : State, paramsOk s.par = true → s.flt = .noFault →
    (∀ c more turns i, s.port = c :: more → s.sched = .req :: turns → s.ph = .idle →
      decodeCommand c.word c.payload = .ok i → step s = exec i { s with port := more, sched := turns }) ∧
    (∀ w turns i, s.sched = .label w :: turns → decodeLabel w = .ok i → step s = exec i { s with sched := turns })

/-- Where an instruction's agent is not enabled it changes nothing, and its turn passes and changes nothing else: each command while
one is in progress, SEQ at IDLE and at the hold of D1, and each of the engines' and the interrupt's steps outside the condition its rule
gives (rules R11, R127, R128, R155, R159, R160, R184, R185, R205). The requester's turn then leaves the presentation on the port, and
passes with nothing presented too; with no turn left the state stays (the schedule is the model's own, log entry 3). -/
def Obligations.StepHoldsWhereNoAgentIsEnabled : Prop :=
  ∀ s : State, s.flt = .noFault →
    let notEnabled : Instr → Prop := fun i =>
      (agentOf i = .req ∧ s.ph ≠ .idle) ∨
      (i = .seq ∧ (s.ph = .idle ∨ (s.ph = .d1 ∧ s.rcurValid = false ∧ s.rxStarted = false))) ∨
      (i = .txsend ∧ (s.txActive = false ∨ s.txLen.toNat ≤ s.txSent.toNat ∨ (s.par.arbAtomic = true ∧ s.ph = .s5))) ∨
      (i = .txdone ∧ (s.txActive = false ∨ s.txSent ≠ s.txLen)) ∨
      (i = .rxstart ∧ (s.cfg = false ∨ s.rxStarted = true)) ∨
      ((∃ b, i = .rxbyte b) ∧ s.rxStarted = false) ∨
      (i = .irqtake ∧ (s.irqPend = false ∨ s.irqMask = true))
    (∀ i, notEnabled i → exec i s = .next s) ∧
    (paramsOk s.par = true →
      (∀ turns, s.sched = .req :: turns → s.ph ≠ .idle ∨ s.port = [] → step s = .next { s with sched := turns }) ∧
      (∀ w turns i, s.sched = .label w :: turns → decodeLabel w = .ok i → notEnabled i →
        step s = .next { s with sched := turns }) ∧
      (s.sched = [] → step s = .next s))

/-- A configuration that breaks rule R7 is refused before any step. -/
def Obligations.BadConfigurationIsRefused : Prop :=
  ∀ s : State,
    (¬ (1 ≤ s.par.cTx ∧ s.par.cTx ≤ 65535 ∧ 2 ≤ s.par.cRx ∧ s.par.cRx ≤ 65535 ∧ 1 ≤ s.par.stride ∧
        s.par.txBase.toNat + s.par.cTx ≤ 2 ^ 32 ∧ s.par.rxBase.toNat + s.par.stride * s.par.cRx ≤ 2 ^ 32 ∧
        (s.par.txBase.toNat + s.par.cTx ≤ s.par.rxBase.toNat ∨
          s.par.rxBase.toNat + s.par.stride * s.par.cRx ≤ s.par.txBase.toNat)) →
      step s = .refused .badConfig) ∧
    (∀ t, step s = .next t → t.par = s.par)

/-- A table row's word, placed where the machine takes its next step, is run by that step (the model's placing, log entry 3). -/
def Obligations.PlacedTableWordRuns : Prop :=
  ∀ (s : State) (nbits w : Nat) (i : Instr), paramsOk s.par = true → s.flt = .noFault → decodeTableWord nbits w = some i →
    (agentOf i = .req → s.ph = .idle) → step (s.withFetchWord nbits w) = exec i s

/-! ## System commands -/

/-- INIT puts both channels in their configured, idle state and answers (0, 0); a second INIT is refused (rule R180). -/
def Obligations.InitConfiguresBothChannels : Prop :=
  ∀ s : State, s.flt = .noFault → s.ph = .idle →
    (s.cfg = false → exec .init s = .next { s with
      txActive := false, txLen := 0, txSent := 0, rxWcur := 0, rxStarted := false, rcurValid := false, irqPend := false
      cfg := true, obs := { s.obs with rspLog := s.obs.rspLog ++ [⟨0, 0⟩] } }) ∧
    (s.cfg = true → exec .init s = .refused .doubleInit)

/-- R181: CSENTER, whenever the block is idle and with or without INIT, answers the prior mask and sets the mask, and changes nothing
else; while a command is in progress it has no step. -/
def Obligations.CsenterAnswersThePriorMask : Prop :=
  ∀ s : State, s.flt = .noFault →
    (s.ph = .idle → exec .csenter s = .next { s with
      irqMask := true, obs := { s.obs with rspLog := s.obs.rspLog ++ [⟨0, if s.irqMask = true then 1 else 0⟩] } }) ∧
    (s.ph ≠ .idle → exec .csenter s = .next s)

/-- CSEXIT restores the mask it is handed, 0 or 1, and answers (0, 0) (rule R182). -/
def Obligations.CsexitRestoresTheMask : Prop :=
  ∀ (s : State) (m : Bool), s.flt = .noFault → s.ph = .idle →
    exec (.csexit m) s = .next { s with irqMask := m, obs := { s.obs with rspLog := s.obs.rspLog ++ [⟨0, 0⟩] } }

/-- Nesting by value: two enters and the two exits that hand back what the enters answered leave the mask as it was, and between
the two exits it is still set (rules R182, R211). -/
def Obligations.CriticalSectionsNest : Prop :=
  ∀ (s : State) (m : Bool), s.flt = .noFault → s.ph = .idle → s.irqMask = m →
    ∃ t₁ t₂ t₃ t₄, exec .csenter s = .next t₁ ∧ exec .csenter t₁ = .next t₂ ∧ exec (.csexit true) t₂ = .next t₃ ∧
      exec (.csexit m) t₃ = .next t₄ ∧ t₃.irqMask = true ∧ t₄.irqMask = m ∧
      t₄.obs.rspLog = s.obs.rspLog ++ [⟨0, if m = true then 1 else 0⟩, ⟨0, 1⟩, ⟨0, 0⟩, ⟨0, 0⟩]

/-- RDREG answers `x[r]` and changes nothing else but the count of draws, for the draw of RXRCUR (rules R35, R183; the count of
draws is the model's own, log entry 2). -/
def Obligations.RdregAnswersTheRegister : Prop :=
  ∀ (s : State) (r : StatusReg), s.flt = .noFault → s.ph = .idle →
    ∃ v : Word, exec (.rdreg r) s = .next { s with
        draws := if r = .rxrcur ∧ s.rcurValid = false then s.draws + 1 else s.draws
        obs := { s.obs with rspLog := s.obs.rspLog ++ [⟨0, v⟩] } } ∧
      (r = .status → v = s.statusWord) ∧ (r = .txlen → v.toNat = s.txLen.toNat) ∧
      (r = .rxwcur → v = BitVec.ofNat 32 (s.par.rxBase.toNat + s.par.stride * s.rxWcur.toNat)) ∧
      (r = .rxrcur → s.rcurValid = true → v = BitVec.ofNat 32 (s.par.rxBase.toNat + s.par.stride * s.rcur.toNat)) ∧
      (r = .rxrcur → s.rcurValid = false → v = Config.rxrcurDraw s.draws) ∧
      (r = .captx → v = BitVec.ofNat 32 s.par.cTx) ∧ (r = .caprx → v = BitVec.ofNat 32 s.par.cRx)

/-- R36: the fields of STATUS, bit by bit, and the bits that read 0. -/
def Obligations.StatusBits : Prop :=
  ∀ s : State, s.statusWord.getLsbD 0 = s.txActive ∧ s.statusWord.getLsbD 1 = s.rxStarted ∧
    s.statusWord.getLsbD 2 = s.rcurValid ∧ s.statusWord.getLsbD 3 = s.irqMask ∧ s.statusWord.getLsbD 4 = s.irqPend ∧
    s.statusWord.getLsbD 5 = s.cfg ∧ ∀ k, 6 ≤ k → s.statusWord.getLsbD k = false

/-- While a command is in progress no command has a step (rule R185). -/
def Obligations.CommandsHoldWhileOneIsInProgress : Prop :=
  ∀ (s : State) (i : Instr), agentOf i = .req → s.flt = .noFault → s.ph ≠ .idle → exec i s = .next s

/-! ## SUBMIT -/

/-- SUBMIT is accepted into S1 with its operands latched; before INIT it takes the fault NotConfigured with its `opc` (rules R120,
R186, R202; `fltInfo` is the model's own, log entry 4). -/
def Obligations.SubmitIsLatched : Prop :=
  ∀ (s : State) (n : Len) (ps : List Byte), s.flt = .noFault → s.ph = .idle →
    (s.cfg = true → exec (.submit n ps) s = .next { s with opN := n, opBytes := ps, ph := .s1 }) ∧
    (s.cfg = false → exec (.submit n ps) s = .next { s with flt := .notConfigured, fltInfo := 0x2 })

/-- Phase S1: ZeroLength, the two CapacityExceeded cases, and the sampled active length otherwise (rule R121). -/
def Obligations.PhaseS1ChecksCapacityAndSamples : Prop :=
  ∀ s : State, s.flt = .noFault → s.ph = .s1 →
    (s.opN.toNat = 0 → exec .seq s = .refused .zeroLength) ∧
    (s.par.cTx < s.opN.toNat ∨ (0 < s.opN.toNat ∧ s.txActive = true ∧ s.par.cTx - s.txLen.toNat < s.opN.toNat) →
      exec .seq s = .next { s with ph := .idle, obs := { s.obs with rspLog := s.obs.rspLog ++ [⟨1, 0⟩] } }) ∧
    (0 < s.opN.toNat → s.opN.toNat ≤ s.par.cTx → s.txActive = true → s.opN.toNat ≤ s.par.cTx - s.txLen.toNat →
      exec .seq s = .next { s with sL := s.txLen, ph := .s2 }) ∧
    (0 < s.opN.toNat → s.opN.toNat ≤ s.par.cTx → s.txActive = false →
      exec .seq s = .next { s with sL := 0, ph := .s2 })

/-- Phase S2 puts the payload at the offsets from the sampled length on, leaves every other address as it was, and moves to S3
(rule R122). -/
def Obligations.PhaseS2CopiesBehindTheWindow : Prop :=
  ∀ s : State, s.flt = .noFault → s.ph = .s2 → s.opBytes.length = s.opN.toNat → s.sL.toNat + s.opN.toNat ≤ s.par.cTx →
    ∃ t, exec .seq s = .next t ∧ t = { s with mem := t.mem, ph := .s3 } ∧
      (∀ k, (h : k < s.opBytes.length) → t.mem.read (txAddr s.par (s.sL.toNat + k)) = some s.opBytes[k]) ∧
      (∀ a, a < txAddr s.par s.sL.toNat ∨ txAddr s.par s.sL.toNat + s.opN.toNat ≤ a → t.mem.read a = s.mem.read a)

/-- Phases S3, S4 and S5: the mask is saved and set, the length is extended, and the one read of `tx_active` decides (rules R123 to
R125; the stream `accepted` is the model's own, log entry 8). -/
def Obligations.CommitPhases : Prop :=
  ∀ s : State, s.flt = .noFault →
    (s.ph = .s3 → exec .seq s = .next { s with csSaved := s.irqMask, irqMask := true, ph := .s4 }) ∧
    (s.ph = .s4 → s.sL.toNat + s.opN.toNat < 2 ^ 16 →
      ∃ l : Len, l.toNat = s.sL.toNat + s.opN.toNat ∧ exec .seq s = .next { s with txLen := l, ph := .s5 }) ∧
    (s.ph = .s5 → s.txActive = true → exec .seq s = .next { s with
      irqMask := s.csSaved, ph := .idle
      obs := { s.obs with accepted := s.obs.accepted ++ s.opBytes, rspLog := s.obs.rspLog ++ [⟨0, 0⟩] } }) ∧
    (s.ph = .s5 → s.txActive = false → exec .seq s = .next { s with irqMask := s.csSaved, ph := .s6 })

/-- Phase S6 puts the payload at the origin, leaves every other address as it was, and starts a transfer of exactly those bytes
(rules R126, R133; the stream `accepted` is the model's own, log entry 8). -/
def Obligations.PhaseS6RestartsFromTheOrigin : Prop :=
  ∀ s : State, s.flt = .noFault → s.ph = .s6 → s.opBytes.length = s.opN.toNat → s.opN.toNat ≤ s.par.cTx →
    ∃ t, exec .seq s = .next t ∧
      t = { s with
        mem := t.mem, txLen := s.opN, txSent := 0, txActive := true, ph := .idle
        obs := { s.obs with accepted := s.obs.accepted ++ s.opBytes, rspLog := s.obs.rspLog ++ [⟨0, 0⟩] } } ∧
      (∀ k, (h : k < s.opBytes.length) → t.mem.read (txAddr s.par k) = some s.opBytes[k]) ∧
      (∀ a, a < txAddr s.par 0 ∨ txAddr s.par 0 + s.opN.toNat ≤ a → t.mem.read a = s.mem.read a)

/-- R134: the active length is `tx_len` while a transfer is active and 0 otherwise, and it equals `tx_len` in every state outside
the fallback window. -/
def Obligations.ActiveLengthIsTheLengthRegister : Prop :=
  ∀ s : State, (s.txActive = true → s.activeLength = s.txLen) ∧ (s.txActive = false → s.activeLength = 0) ∧
    (Inv s → s.ph ≠ .s5 → s.ph ≠ .s6 → s.activeLength = s.txLen)

/-- R135, R209: a SUBMIT that answers CapacityExceeded leaves every element but its own latches as it was when presented. -/
def Obligations.FailedSubmitLeavesTheStateUnchanged : Prop :=
  ∀ (s : State) (n : Len) (ps : List Byte), s.flt = .noFault → s.ph = .idle → s.cfg = true → 0 < n.toNat →
    s.par.cTx < n.toNat ∨ (s.txActive = true ∧ s.par.cTx - s.txLen.toNat < n.toNat) →
      ∃ t, exec (.submit n ps) s = .next t ∧ exec .seq t = .next { s with
        opN := n, opBytes := ps, obs := { s.obs with rspLog := s.obs.rspLog ++ [⟨1, 0⟩] } }

/-- R136: with no interleaving, SUBMIT is `submit_atomic`, up to its working registers. (`submitAtomic` also appends the response, rule
R12, and the payload to the stream `accepted`, which is the model's own, log entry 8.) -/
def Obligations.SubmitRunsAsSubmitAtomic : Prop :=
  ∀ (s : State) (n : Len) (ps : List Byte), Inv s → s.flt = .noFault → s.ph = .idle → s.cfg = true → ps.length = n.toNat →
    (ps.length = 0 → runCommand (.submit n ps) 6 s = .refused .zeroLength) ∧
    (0 < ps.length → ∃ t u, submitAtomic ps s = .next u ∧ runCommand (.submit n ps) 6 s = .next t ∧
      t.lessSubmit = u.lessSubmit)

/-- R132: SUBMIT never blocks: in every phase the sequencer has a step (at S1 for a positive count: a SUBMIT of no bytes is refused
there, rule R121), each one brings the end nearer, a SUBMIT is at most six from it, and no other agent sets it back. -/
def Obligations.SubmitNeverBlocks : Prop :=
  ∀ s : State, Inv s → s.flt = .noFault →
    (s.ph = .s1 ∧ 0 < s.opN.toNat ∨ s.ph = .s2 ∨ s.ph = .s3 ∨ s.ph = .s4 ∨ s.ph = .s5 ∨ s.ph = .s6) →
      s.stepsLeft ≤ 6 ∧ (∃ t, exec .seq s = .next t ∧ t.flt = .noFault ∧ t.stepsLeft < s.stepsLeft) ∧
        ∀ i t, agentOf i ≠ .seq → exec i s = .next t → t.ph = s.ph ∧ t.opN = s.opN ∧ t.stepsLeft = s.stepsLeft

/-! ## The TX engine and the arbiter -/

/-- TXSEND sends the byte at the engine's position and moves it on by one; where it is not enabled it holds, and an element without a
value takes the fault UninitRead with its address (rules R68, R127, R130, R202; `fltInfo` is the model's own, log entry 4). -/
def Obligations.TxsendSendsTheNextByte : Prop :=
  ∀ s : State, s.flt = .noFault → s.txLen.toNat ≤ s.par.cTx →
    (s.txActive = true → s.txSent.toNat < s.txLen.toNat → ¬ (s.par.arbAtomic = true ∧ s.ph = .s5) →
      (∀ v, s.mem.read (txAddr s.par s.txSent.toNat) = some v →
        ∃ k : Len, k.toNat = s.txSent.toNat + 1 ∧
          exec .txsend s = .next { s with txSent := k, obs := { s.obs with wireOut := s.obs.wireOut ++ [v] } }) ∧
      (s.mem.read (txAddr s.par s.txSent.toNat) = none →
        exec .txsend s = .next { s with flt := .uninitRead, fltInfo := txAddr s.par s.txSent.toNat })) ∧
    (s.txActive = false ∨ s.txLen.toNat ≤ s.txSent.toNat ∨ (s.par.arbAtomic = true ∧ s.ph = .s5) →
      exec .txsend s = .next s)

/-- R128: TXDONE, enabled when the engine has reached the committed length, whatever the mask and the phase: it disables the transfer,
clears the length and raises the signal, which stays raised if it already was. -/
def Obligations.TxdoneCompletesTheTransfer : Prop :=
  ∀ s : State, s.flt = .noFault →
    (s.txActive = true → s.txSent = s.txLen →
      exec .txdone s = .next { s with txActive := false, txLen := 0, txSent := 0, irqPend := true }) ∧
    (s.txActive = false ∨ s.txSent ≠ s.txLen → exec .txdone s = .next s)

/-- R129, R130: with `ARB_ATOMIC = false` the duplicate run exists: at S5, with the one appended byte the next to be sent, TXSEND,
TXDONE and two sequencer steps are all taken; the byte is on the wire and the restarted transfer holds it again. (`accepted` is the model's
own stream, log entry 8.) -/
def Obligations.CommitWindowAdmitsADuplicate : Prop :=
  ∀ (s : State) (v : Byte), Inv s → s.flt = .noFault → s.ph = .s5 → s.txActive = true → s.par.arbAtomic = false →
    s.opBytes = [v] → s.txSent = s.sL → s.txbuf s.sL.toNat = some v →
      ∃ t₁ t₂ t₃ t₄, exec .txsend s = .next t₁ ∧ exec .txdone t₁ = .next t₂ ∧ exec .seq t₂ = .next t₃ ∧ exec .seq t₃ = .next t₄ ∧
        t₃.ph = .s6 ∧ t₄.ph = .idle ∧ t₄.obs.wireOut = s.obs.wireOut ++ [v] ∧ t₄.obs.accepted = s.obs.accepted ++ [v] ∧
        t₄.unsent = [some v]

/-- R131: exactly once. Every step that is no TXSEND taken inside the commit window keeps the account: what went out on the wire and
what the window still holds is the concatenation of the accepted payloads, the model's own stream (log entry 8). (With `ARB_ATOMIC = true` no
such TXSEND is enabled.) -/
def Obligations.EveryStepKeepsExactlyOnce : Prop :=
  ∀ s t : State, Inv s → TxAccount s → s.sendsInCommitWindow = false → step s = .next t → TxAccount t

/-- R130, R131: what the account says of the wire: in every state it is the beginning of the accepted payloads (the model's own stream, log
entry 8), the one being appended included; with no transfer active and outside the commit window it is all of them; and the engine held at S5 never breaks the premise. -/
def Obligations.AccountedWireIsTheAcceptedPayloads : Prop :=
  ∀ s : State, TxAccount s →
    s.obs.wireOut <+: s.obs.accepted ++ s.opBytes ∧ (s.txActive = false → s.obs.wireOut = s.obs.accepted) ∧
      (s.ph ≠ .s5 → s.obs.wireOut <+: s.obs.accepted) ∧ (s.par.arbAtomic = true → s.sendsInCommitWindow = false)

/-! ## DRAIN -/

/-- DRAIN is accepted into D1; before INIT it takes the fault NotConfigured with its `opc` (rules R154, R186, R202; `fltInfo` is the
model's own, log entry 4). -/
def Obligations.DrainIsAccepted : Prop :=
  ∀ s : State, s.flt = .noFault → s.ph = .idle →
    (s.cfg = true → exec .drain s = .next { s with ph := .d1 }) ∧
    (s.cfg = false → exec .drain s = .next { s with flt := .notConfigured, fltInfo := 0x3 })

/-- Phase D1: the first call initializes the read cursor to the origin, once the channel has started; until then it holds; a later
call moves on (rule R155). -/
def Obligations.PhaseD1InitializesTheCursor : Prop :=
  ∀ s : State, paramsOk s.par = true → s.flt = .noFault → s.ph = .d1 →
    (s.rcurValid = true → exec .seq s = .next { s with ph := .d2 }) ∧
    (s.rcurValid = false → s.rxStarted = true → exec .seq s = .next { s with rcur := 0, rcurValid := true, ph := .d2 }) ∧
    (s.rcurValid = false → s.rxStarted = false → exec .seq s = .next s)

/-- Phase D2: the snapshot is the write cursor, read through the channel's address; an address that is no element's takes the fault
CursorInvalid with that address (rules R153, R156, R202; `fltInfo` is the model's own, log entry 4). -/
def Obligations.PhaseD2TakesTheSnapshot : Prop :=
  ∀ s : State, paramsOk s.par = true → s.flt = .noFault → s.ph = .d2 →
    (s.rxWcur.toNat < s.par.cRx → exec .seq s = .next { s with snap := s.rxWcur, ph := .d3 }) ∧
    (s.par.cRx ≤ s.rxWcur.toNat → exec .seq s = .next { s with
      flt := .cursorInvalid, fltInfo := s.par.rxBase.toNat + s.par.stride * s.rxWcur.toNat })

/-- Phase D3 makes the three-way comparison of the cursor with the snapshot and sets up the first run, which D4 copies (rule R157); with
nothing new it ends the command and leaves the boundary in `drain_out` (rule R12; its form, the entry `close`, is log entry 10). -/
def Obligations.PhaseD3ChoosesTheRuns : Prop :=
  ∀ s : State, paramsOk s.par = true → s.flt = .noFault → s.ph = .d3 →
    (s.rcur = s.snap → exec .seq s = .next { s with
      dcnt := 0, ph := .idle
      obs := { s.obs with drainOut := s.obs.drainOut ++ [.close], rspLog := s.obs.rspLog ++ [⟨0, 0⟩] } }) ∧
    (s.rcur.toNat < s.snap.toNat → exec .seq s = .next { s with dcnt := 0, dptr := s.rcur, dend := s.snap, ph := .d4 }) ∧
    (s.snap.toNat < s.rcur.toNat →
      ∃ l : Len, l.toNat = s.par.cRx ∧ exec .seq s = .next { s with dcnt := 0, dptr := s.rcur, dend := l, ph := .d4 })

/-- Phase D4: one byte is copied, or a run is closed: the run that ends at the snapshot ends the command with the count, the tail run
sets up the head run (rules R12, R68, R150, R158, R202; `fltInfo` is the model's own, log entry 4, and the boundary's form, the entry
`close`, is log entry 10). -/
def Obligations.PhaseD4CopiesOrCloses : Prop :=
  ∀ s : State, paramsOk s.par = true → s.flt = .noFault → s.ph = .d4 → s.dend.toNat ≤ s.par.cRx →
    (∀ v, s.dptr.toNat < s.dend.toNat → s.dcnt.toNat < s.par.cRx →
      s.mem.read (rxAddr s.par s.dptr.toNat) = some v →
        ∃ p c : Len, p.toNat = s.dptr.toNat + 1 ∧ c.toNat = s.dcnt.toNat + 1 ∧ exec .seq s = .next { s with
          dptr := p, dcnt := c, obs := { s.obs with drainOut := s.obs.drainOut ++ [.byte v] } }) ∧
    (s.dptr.toNat < s.dend.toNat → s.mem.read (rxAddr s.par s.dptr.toNat) = none →
      exec .seq s = .next { s with flt := .uninitRead, fltInfo := rxAddr s.par s.dptr.toNat }) ∧
    (s.dend.toNat ≤ s.dptr.toNat → s.dend = s.snap → s.snap.toNat < s.par.cRx → exec .seq s = .next { s with
      rcur := s.snap, ph := .idle
      obs := { s.obs with drainOut := s.obs.drainOut ++ [.close], rspLog := s.obs.rspLog ++ [⟨0, zext32 s.dcnt⟩] } }) ∧
    (s.dend.toNat ≤ s.dptr.toNat → s.dend = s.snap → s.par.cRx ≤ s.snap.toNat → exec .seq s = .next { s with
      flt := .cursorInvalid, fltInfo := s.snap.toNat }) ∧
    (s.dend.toNat ≤ s.dptr.toNat → s.dend ≠ s.snap → exec .seq s = .next { s with rcur := 0, dptr := 0, dend := s.snap })

/-- R164: with no interleaving, DRAIN is `drain_atomic`: it returns the bytes of the linear run or of the two runs, as many as are
unread, and leaves the cursor at the write cursor, up to its working registers. (`drainReturned` also appends the response
and the boundary, rule R12, whose form, the entry `close`, is log entry 10.) -/
def Obligations.DrainRunsAsDrainAtomic : Prop :=
  ∀ s : State, Inv s → s.flt = .noFault → s.ph = .idle → s.cfg = true → s.rcurValid = true ∨ s.rxStarted = true →
    ∃ (out : List Byte) (t : State), runCommand .drain (s.par.cRx + 5) s = .next t ∧ out.map some = s.drainCells ∧
      out.length = unread s.par s.rxWcur.toNat s.drainFrom ∧ t.lessDrain = (drainReturned out s).lessDrain

/-- R163: DRAIN never blocks, but for the hold of its first call: in every phase but that hold the sequencer has a step, each one brings
the end nearer, and no other agent sets it back. -/
def Obligations.DrainNeverBlocksPastTheStart : Prop :=
  ∀ s : State, Inv s → s.flt = .noFault → s.ph = .d1 ∨ s.ph = .d2 ∨ s.ph = .d3 ∨ s.ph = .d4 →
    ¬ (s.ph = .d1 ∧ s.rcurValid = false ∧ s.rxStarted = false) →
      s.stepsLeft ≤ s.par.cRx + 4 ∧ (∃ t, exec .seq s = .next t ∧ t.flt = .noFault ∧ t.stepsLeft < s.stepsLeft) ∧
        ∀ i t, agentOf i ≠ .seq → exec i s = .next t → t.ph = s.ph ∧ t.stepsLeft = s.stepsLeft

/-! ## The RX engine -/

/-- R159: RXSTART sets `rx_started`, once the block is configured and the channel has not started, and changes nothing else. -/
def Obligations.RxstartSignalsTheStart : Prop :=
  ∀ s : State, s.flt = .noFault →
    (s.cfg = true → s.rxStarted = false → exec .rxstart s = .next { s with rxStarted := true }) ∧
    (s.cfg = false ∨ s.rxStarted = true → exec .rxstart s = .next s)

/-- RXBYTE writes the byte at the write cursor's element and at no other address, and advances the cursor modulo `C_rx`; before the
start it has no step (rules R26, R160). -/
def Obligations.RxbyteWritesAndAdvances : Prop :=
  ∀ (s : State) (b : Byte), paramsOk s.par = true → s.flt = .noFault → s.rxWcur.toNat < s.par.cRx →
    (s.rxStarted = true → ∃ t, exec (.rxbyte b) s = .next t ∧
      t = { s with mem := t.mem, rxWcur := t.rxWcur, obs := { s.obs with wireIn := s.obs.wireIn ++ [b] } } ∧
      t.rxWcur.toNat = (if s.rxWcur.toNat + 1 = s.par.cRx then 0 else s.rxWcur.toNat + 1) ∧
      t.mem.read (rxAddr s.par s.rxWcur.toNat) = some b ∧
      ∀ a, a ≠ rxAddr s.par s.rxWcur.toNat → t.mem.read a = s.mem.read a) ∧
    (s.rxStarted = false → exec (.rxbyte b) s = .next s)

/-- R161: in arrival order. Under NoLap every step keeps the account: the bytes drained are the first that arrived, in order, and the
buffer holds those not yet returned. (What was returned is counted at the boundaries of `drain_out`, whose form is log entry 10.) -/
def Obligations.EveryStepKeepsArrivalOrder : Prop :=
  ∀ s t : State, Inv s → RxAccount s → s.noLap = true → step s = .next t → RxAccount t

/-- R161: the bytes one DRAIN returns: the step that ends it answers `count = unread(snap, R mod C_rx)`, where `R` bytes had been
returned before, and the stream then holds the first `R + count` bytes of `wire_in`. (`R` is counted at the boundaries of
`drain_out`, whose form is log entry 10.) -/
def Obligations.DrainReturnsTheNextArrivals : Prop :=
  ∀ s t : State, Inv s → RxAccount s → s.flt = .noFault → s.ph = .d3 ∨ s.ph = .d4 →
    exec .seq s = .next t → t.ph = .idle →
      t.returned = s.returned + unread s.par s.snap.toNat (s.returned % s.par.cRx) ∧
      t.obs.rspLog = s.obs.rspLog ++ [⟨0, BitVec.ofNat 32 (t.returned - s.returned)⟩] ∧
      drained t.obs.drainOut = t.obs.wireIn.take t.returned ∧ t.rcur = s.snap

/-! ## Cursors -/

/-- R151, R152: `advance` and `unread` on cursors: their ranges, `unread` as the difference modulo `C_rx`, and that advancing by the
unread count reaches the write cursor. -/
def Obligations.CursorArithmetic : Prop :=
  ∀ (p : Params) (w r k : Nat), paramsOk p = true → w < p.cRx → r < p.cRx →
    advance p r k < p.cRx ∧ advance p r k = (r + k) % p.cRx ∧ advance p (p.cRx - 1) 1 = 0 ∧
      unread p w r < p.cRx ∧ (unread p w r : Int) = ((w : Int) - (r : Int)) % (p.cRx : Int) ∧
      (w = r → unread p w r = 0) ∧ (r < w → unread p w r = w - r) ∧ (w < r → unread p w r = p.cRx - r + w) ∧
      advance p r (unread p w r) = w

/-- R245: after `k` bytes with none drained, the unread count is `k` modulo `C_rx`: right while at most `C_rx - 1` are undrained, 0 after
exactly `C_rx`. -/
def Obligations.LapMakesTheCountAmbiguous : Prop :=
  ∀ (p : Params) (r k : Nat), paramsOk p = true → r < p.cRx →
    unread p (advance p r k) r = k % p.cRx ∧ (k ≤ p.cRx - 1 → unread p (advance p r k) r = k) ∧
      unread p (advance p r p.cRx) r = 0

/-- R150, R153: `mkCursor` accepts the offsets below `C_rx` and `rx_off` the addresses of elements, giving their offsets; the buffer end
and every other address is no cursor. -/
def Obligations.ChannelAddressesAreValidated : Prop :=
  ∀ p : Params, paramsOk p = true →
    (∀ v, mkCursor p v = if v < p.cRx then some v else none) ∧ (∀ c, c < p.cRx → rxOff p (rxAddr p c) = some c) ∧
      (∀ a c, rxOff p a = some c → c < p.cRx ∧ a = rxAddr p c) ∧
      (∀ a, (∀ c, c < p.cRx → a ≠ rxAddr p c) → rxOff p a = none) ∧ rxOff p (p.rxBase.toNat + p.stride * p.cRx) = none

/-! ## The interrupt -/

/-- R205: IRQTAKE is enabled when the signal is pending and not masked; it clears the pending bit, logs the delivery and changes nothing
else; it cannot fall between S3 and S5, nor while the caller holds the mask. -/
def Obligations.IrqtakeDeliversTheSignal : Prop :=
  ∀ s : State, s.flt = .noFault →
    (s.irqPend = true → s.irqMask = false →
      exec .irqtake s = .next { s with irqPend := false, obs := { s.obs with irqLog := s.obs.irqLog ++ [.taken] } }) ∧
    (s.irqPend = false ∨ s.irqMask = true → exec .irqtake s = .next s) ∧
    (Inv s → s.ph = .s4 ∨ s.ph = .s5 → exec .irqtake s = .next s)

/-! ## Faults and refusals -/

/-- R202, R241: after a fault no agent has a step: every instruction, and every step of the machine, answers the recorded fault (how the
model answers a stopped machine, and `fltInfo`, are log entry 4). -/
def Obligations.FaultStopsEveryAgent : Prop :=
  ∀ s : State, s.flt ≠ .noFault → ∃ r, (∀ i, exec i s = .fault r) ∧ (paramsOk s.par = true → step s = .fault r) ∧
    (s.flt = .notConfigured → r = .notConfigured s.fltInfo) ∧ (s.flt = .cursorInvalid → r = .cursorInvalid s.fltInfo) ∧
    (s.flt = .uninitRead → r = .uninitRead s.fltInfo)

/-- R202, R68: a configured block in a state the invariants admit never faults: no step of any agent records a fault or stops with one. -/
def Obligations.ConfiguredBlockNeverFaults : Prop :=
  ∀ s : State, Inv s → s.cfg = true → s.flt = .noFault →
    (∀ t, step s = .next t → t.flt = .noFault) ∧ ∀ r, step s ≠ .fault r

/-- The only fault a step can record from a state the invariants admit is NotConfigured, by a SUBMIT or DRAIN before INIT, and such a
step changes nothing but the fault and its info (rule R202; `fltInfo` is the model's own, log entry 4). -/
def Obligations.OnlyNotConfiguredIsReachable : Prop :=
  ∀ (s t : State) (i : Instr), Inv s → s.flt = .noFault → exec i s = .next t → t.flt ≠ .noFault →
    t.flt = .notConfigured ∧ s.cfg = false ∧ (i = .drain ∨ ∃ n ps, i = .submit n ps) ∧
      t = { s with flt := .notConfigured, fltInfo := t.fltInfo } ∧ t.fltInfo = (opcode i).toNat

/-- R203: exactly when an instruction is refused, and why. -/
def Obligations.RefusalsAreExactly : Prop :=
  ∀ (i : Instr) (s : State) (e : Refusal), exec i s = .refused e ↔
    s.flt = .noFault ∧ ((i = .init ∧ s.ph = .idle ∧ s.cfg = true ∧ e = .doubleInit) ∨
      (i = .seq ∧ s.ph = .s1 ∧ s.opN = 0 ∧ e = .zeroLength) ∨ (i = .seq ∧ s.ph.legal = false ∧ e = .reservedPhase))

/-! ## The whole machine -/

/-- R40: every step keeps the invariants I1 to I8, the canonical form of memory, and what makes them inductive. -/
def Obligations.EveryStepKeepsTheInvariants : Prop := ∀ s t : State, Inv s → step s = .next t → Inv t

/-- The invariants and both accounts hold at reset, for every configuration rule R7 admits, and so for the one `State.reset` carries (log
entry 1). The exactly-once account speaks of the stream `accepted`, which is the model's own and empty at reset (log entry 8), and the
arrival-order account of the boundaries of log entry 10; none speaks of a value of log entry 5. -/
def Obligations.ResetMeetsTheInvariants : Prop :=
  ∀ p : Params, paramsOk p = true →
    Inv (State.resetWith p) ∧ TxAccount (State.resetWith p) ∧ RxAccount (State.resetWith p) ∧
      (State.resetWith p).noLap = true ∧ Inv State.reset

/-- Reset puts every element the spec gives a value at that value; every buffer element holds no value (rules R43, R240). -/
def Obligations.ResetValues : Prop :=
  ∀ p : Params, ∃ s : State, s = State.resetWith p ∧ s.par = p ∧ (∀ a, s.mem.read a = none) ∧ s.txLen = 0 ∧ s.txActive = false ∧
    s.txSent = 0 ∧ s.rxWcur = 0 ∧ s.rcurValid = false ∧ s.rxStarted = false ∧ s.irqMask = false ∧ s.irqPend = false ∧
    s.cfg = false ∧ s.flt = .noFault ∧ s.ph = .idle ∧ s.obs.wireOut = [] ∧ s.obs.wireIn = [] ∧ s.obs.drainOut = [] ∧
    s.obs.rspLog = [] ∧ s.obs.irqLog = []

/-- R42: who may write what. An instruction leaves every element its agent does not own as it was, INIT apart, which idles both
channels; TXE only clears `tx_active` and only sets `irq_pend`, SEQ only sets `tx_active`, IRQ only clears `irq_pend`. -/
def Obligations.AgentsWriteOnlyWhatTheyOwn : Prop :=
  ∀ (i : Instr) (s t : State), Inv s → exec i s = .next t →
    (agentOf i ≠ .seq → ∀ k, k < s.par.cTx → t.txbuf k = s.txbuf k) ∧
    (agentOf i ≠ .rxe → ∀ k, k < s.par.cRx → t.rxbuf k = s.rxbuf k) ∧
    (agentOf i ≠ .seq → agentOf i ≠ .txe → i ≠ .init → t.txLen = s.txLen ∧ t.txActive = s.txActive ∧ t.txSent = s.txSent) ∧
    (agentOf i = .txe → t.txActive = true → s.txActive = true) ∧ (agentOf i = .seq → s.txActive = true → t.txActive = true) ∧
    (agentOf i ≠ .seq → t.rcur = s.rcur ∧ (i ≠ .init → t.rcurValid = s.rcurValid)) ∧
    (agentOf i ≠ .rxe → i ≠ .init → t.rxWcur = s.rxWcur ∧ t.rxStarted = s.rxStarted) ∧
    (agentOf i ≠ .req → agentOf i ≠ .seq → t.irqMask = s.irqMask ∧ t.ph = s.ph) ∧
    (agentOf i ≠ .txe → agentOf i ≠ .irq → i ≠ .init → t.irqPend = s.irqPend) ∧
    (agentOf i = .txe → s.irqPend = true → t.irqPend = true) ∧ (agentOf i = .irq → t.irqPend = true → s.irqPend = true) ∧
    (i ≠ .init → t.cfg = s.cfg) ∧ (agentOf i ≠ .req → t.opN = s.opN ∧ t.opBytes = s.opBytes) ∧
    (agentOf i ≠ .seq → t.sL = s.sL ∧ t.csSaved = s.csSaved ∧ t.snap = s.snap ∧ t.dptr = s.dptr ∧ t.dend = s.dend ∧
      t.dcnt = s.dcnt)

/-- The frame of memory: RXBYTE stores at the write cursor's element, SEQ at S2 and S6 at the payload's offsets, and nothing else
stores; every other address reads as before (rules R21, R25, R66). -/
def Obligations.StoresGoOnlyWhereTheRulesSay : Prop :=
  ∀ (i : Instr) (s t : State), exec i s = .next t →
    (∀ a, (∀ b, i ≠ .rxbyte b) → i ≠ .seq → t.mem.read a = s.mem.read a) ∧
    (∀ a b, i = .rxbyte b → a ≠ rxAddr s.par s.rxWcur.toNat → t.mem.read a = s.mem.read a) ∧
    (∀ a, i = .seq → s.ph ≠ .s2 → s.ph ≠ .s6 → t.mem.read a = s.mem.read a) ∧
    (∀ a, i = .seq → s.ph = .s2 → a < txAddr s.par s.sL.toNat ∨ txAddr s.par s.sL.toNat + s.opN.toNat ≤ a →
      t.mem.read a = s.mem.read a) ∧
    (∀ a, i = .seq → s.ph = .s6 → a < txAddr s.par 0 ∨ txAddr s.par 0 + s.opN.toNat ≤ a → t.mem.read a = s.mem.read a)

/-- R241: no step clears `flt`, `cfg` or `rcur_valid`: only reset does. (That a state with a fault has no next state is log entry 4.) -/
def Obligations.OnlyResetClears : Prop :=
  ∀ s t : State, Inv s → step s = .next t →
    s.flt = .noFault ∧ (s.cfg = true → t.cfg = true) ∧ (s.rcurValid = true → t.rcurValid = true)

/-- R244: at a final state neither SEQ nor TXE nor IRQ has a step. -/
def Obligations.FinalStateHasNoAutonomousStep : Prop :=
  ∀ s : State, s.isFinal = true →
    exec .seq s = .next s ∧ exec .txsend s = .next s ∧ exec .txdone s = .next s ∧ exec .irqtake s = .next s
end

