-- ==== Sys2Proof/Laws/Address.lean ====
section
/-! SUPPORT. Lengths and addresses: the narrowing `len`, the constraints of rule R7 one by one, and where the two buffers' elements lie (rules R61, R62). -/

namespace Sys2Proof

theorem len_toNat {n : Nat} (h : n < 65536) : (len n).toNat = n := by
  simp only [len, BitVec.toNat_ofNat]
  exact Nat.mod_eq_of_lt h

@[simp] theorem len_toNat_self (x : Len) : len x.toNat = x := by
  simp [len]

theorem Len.lt_65536 (x : Len) : x.toNat < 65536 := x.isLt

theorem Len.ext {x y : Len} (h : x.toNat = y.toNat) : x = y := BitVec.eq_of_toNat_eq h

@[simp] theorem zext32_toNat (x : Len) : (zext32 x).toNat = x.toNat := by
  have := x.isLt
  simp only [zext32, BitVec.toNat_ofNat]
  exact Nat.mod_eq_of_lt (by omega)

namespace Machine

/-- Rule R7, constraint by constraint. -/
theorem paramsOk_iff (p : Params) : paramsOk p = true ↔
    1 ≤ p.cTx ∧ p.cTx ≤ 65535 ∧ 2 ≤ p.cRx ∧ p.cRx ≤ 65535 ∧ 1 ≤ p.stride ∧ p.txBase.toNat + p.cTx ≤ 2 ^ 32 ∧
      p.rxBase.toNat + p.stride * p.cRx ≤ 2 ^ 32 ∧
      (p.txBase.toNat + p.cTx ≤ p.rxBase.toNat ∨ p.rxBase.toNat + p.stride * p.cRx ≤ p.txBase.toNat) := by
  simp only [paramsOk, Bool.and_eq_true, Bool.or_eq_true, decide_eq_true_eq, and_assoc]
  exact Iff.rfl

theorem isTxElement_iff (p : Params) (a : Nat) :
    isTxElement p a = true ↔ ∃ off < p.cTx, a = txAddr p off := by
  simp only [isTxElement, Bool.and_eq_true, decide_eq_true_eq, txAddr]
  constructor
  · rintro ⟨h1, h2⟩
    exact ⟨a - p.txBase.toNat, by omega, by omega⟩
  · rintro ⟨off, h, rfl⟩
    omega

/-- Every TX offset is an element. -/
theorem isElement_txAddr {p : Params} {off : Nat} (h : off < p.cTx) : isElement p (txAddr p off) = true := by
  rw [isElement, (isTxElement_iff p _).2 ⟨off, h, rfl⟩, Bool.true_or]

/-- The elements of RxBuffer do not pass its end. -/
theorem rxAddr_lt {p : Params} {off : Nat} (hs : 1 ≤ p.stride) (h : off < p.cRx) :
    rxAddr p off < p.rxBase.toNat + p.stride * p.cRx := by
  have := Nat.mul_lt_mul_of_pos_left h hs
  simp only [rxAddr]; omega

theorem rxAddr_inj {p : Params} {i j : Nat} (hs : 1 ≤ p.stride) (h : rxAddr p i = rxAddr p j) : i = j := by
  simp only [rxAddr] at h
  exact Nat.eq_of_mul_eq_mul_left hs (by omega)

theorem rxOff_some {p : Params} {a off : Nat} (h : rxOff p a = some off) :
    off < p.cRx ∧ a = rxAddr p off := by
  rw [rxOff] at h
  split at h
  · rename_i hc
    obtain ⟨h1, h2, h3⟩ := hc
    cases h
    have hd : p.stride * ((a - p.rxBase.toNat) / p.stride) = a - p.rxBase.toNat :=
      Nat.mul_div_cancel' (Nat.dvd_of_mod_eq_zero h3)
    refine ⟨Nat.div_lt_of_lt_mul (by omega), ?_⟩
    simp only [rxAddr]; omega
  · cases h

theorem rxOff_of_lt {p : Params} {off : Nat} (hs : 1 ≤ p.stride) (h : off < p.cRx) :
    (rxOff p (rxAddr p off)).isSome = true := by
  have := rxAddr_lt hs h
  simp only [rxAddr] at *
  rw [rxOff, if_pos ⟨by omega, this, by simp⟩]
  rfl

/-- Every RX offset is an element. -/
theorem isElement_rxAddr {p : Params} {off : Nat} (hs : 1 ≤ p.stride) (h : off < p.cRx) :
    isElement p (rxAddr p off) = true := by
  rw [isElement, rxOff_of_lt hs h, Bool.or_true]

/-- The two buffers share no element (rule R7). -/
theorem txAddr_ne_rxAddr {p : Params} (hp : paramsOk p = true) {i j : Nat} (hi : i < p.cTx) (hj : j < p.cRx) :
    txAddr p i ≠ rxAddr p j := by
  obtain ⟨-, -, -, -, hs, -, -, hd⟩ := (paramsOk_iff p).1 hp
  have := rxAddr_lt hs hj
  simp only [txAddr, rxAddr] at *
  omega

theorem runInMap_iff (p : Params) (a n : Nat) : runInMap p a n = true ↔ ∀ k < n, isElement p (a + k) = true := by
  induction n generalizing a with
  | zero => simp [runInMap]
  | succ n ih =>
    rw [runInMap, Bool.and_eq_true, ih]
    constructor
    · rintro ⟨h0, h⟩ k hk
      cases k with
      | zero => exact h0
      | succ k => simpa [Nat.add_assoc, Nat.add_comm 1] using h k (by omega)
    · intro h
      exact ⟨h 0 (by omega), fun k hk => by simpa [Nat.add_assoc, Nat.add_comm 1] using h (k + 1) (by omega)⟩

/-- A run of TX offsets inside the buffer is a run of elements. -/
theorem runInMap_txAddr {p : Params} {off n : Nat} (h : off + n ≤ p.cTx) : runInMap p (txAddr p off) n = true := by
  rw [runInMap_iff]
  intro k hk
  have := isElement_txAddr (p := p) (off := off + k) (by omega)
  simpa [txAddr, Nat.add_assoc] using this

end Machine

end Sys2Proof
end

