-- ==== Sys2Proof/Laws/Memory.lean ====
section
/-! SUPPORT. The laws of memory: a read after a write, and the canonical form that every operation keeps (rule R68). -/

namespace Sys2Proof.Machine

/-! ## One byte -/

theorem read_write_same (m : Memory) (a : Nat) (v : Byte) : (m.write a v).read a = some v := by
  induction m with
  | nil => simp [Memory.write, Memory.read]
  | cons c m ih =>
    by_cases h : a < c.1
    · simp [Memory.write, Memory.read, h]
    · by_cases h' : a = c.1
      · simp [Memory.write, Memory.read, h']
      · simp [Memory.write, Memory.read, h, h', ih, Ne.symm h']

theorem read_write_other (m : Memory) {a b : Nat} (v : Byte) (hab : b ≠ a) : (m.write a v).read b = m.read b := by
  induction m with
  | nil => simp [Memory.write, Memory.read, Ne.symm hab]
  | cons c m ih =>
    by_cases h : a < c.1
    · simp [Memory.write, Memory.read, h, Ne.symm hab]
    · by_cases h' : a = c.1
      · simp [Memory.write, Memory.read, ← h', Ne.symm hab]
      · simp [Memory.write, Memory.read, h, h', ih]

theorem read_write (m : Memory) (a b : Nat) (v : Byte) : (m.write a v).read b = if b = a then some v else m.read b := by
  by_cases h : b = a
  · simp [h, read_write_same]
  · simp [h, read_write_other]

/-- A write makes no element lose its value. -/
theorem isSome_read_write (m : Memory) (a b : Nat) (v : Byte) (h : (m.read b).isSome = true) :
    ((m.write a v).read b).isSome = true := by
  rw [read_write]; split <;> simp [h]

theorem mem_write {m : Memory} {a : Nat} {v : Byte} {c : Host.Cell} (h : c ∈ m.write a v) : c = (a, v) ∨ c ∈ m := by
  induction m with
  | nil => exact .inl (by simpa [Memory.write] using h)
  | cons d m ih =>
    rw [Memory.write] at h
    split at h
    · simpa using h
    · split at h
      · rcases List.mem_cons.1 h with h | h
        · exact .inl h
        · exact .inr (List.mem_cons_of_mem _ h)
      · rcases List.mem_cons.1 h with h | h
        · exact .inr (by simp [h])
        · exact (ih h).imp id (List.mem_cons_of_mem _)

theorem write_wf {m : Memory} (a : Nat) (v : Byte) (h : m.wf) : (m.write a v).wf := by
  induction m with
  | nil => simp [Memory.write, Memory.wf]
  | cons c m ih =>
    obtain ⟨hc, hm⟩ := List.pairwise_cons.1 h
    rw [Memory.write]
    split
    · rename_i hlt
      refine List.pairwise_cons.2 ⟨fun d hd => ?_, h⟩
      rcases List.mem_cons.1 hd with rfl | hd
      · exact hlt
      · exact hlt.trans (hc d hd)
    · split
      · rename_i heq
        exact List.pairwise_cons.2 ⟨fun d hd => by simpa [heq] using hc d hd, hm⟩
      · refine List.pairwise_cons.2 ⟨fun d hd => ?_, ih hm⟩
        rcases mem_write hd with rfl | hd
        · simp only; omega
        · exact hc d hd

/-! ## A run of bytes -/

theorem read_writeRun (m : Memory) (a b : Nat) (vs : List Byte) :
    (m.writeRun a vs).read b = if a ≤ b ∧ b < a + vs.length then vs[b - a]? else m.read b := by
  induction vs generalizing m a with
  | nil => rw [if_neg (by simp)]; rfl
  | cons v vs ih =>
    rw [Memory.writeRun, ih, read_write]
    by_cases hb : b = a
    · subst hb; simp
    · by_cases h : a + 1 ≤ b ∧ b < a + 1 + vs.length
      · have : b - a = b - (a + 1) + 1 := by omega
        rw [if_pos h, if_pos (by simp; omega), this, List.getElem?_cons_succ]
      · rw [if_neg h, if_neg hb, if_neg (by simp; omega)]

/-- Outside the stored bytes every address reads as before. -/
theorem read_writeRun_outside (m : Memory) {a b : Nat} (vs : List Byte) (h : b < a ∨ a + vs.length ≤ b) :
    (m.writeRun a vs).read b = m.read b := by
  rw [read_writeRun, if_neg (by omega)]

theorem read_writeRun_inside (m : Memory) (a k : Nat) (vs : List Byte) (h : k < vs.length) :
    (m.writeRun a vs).read (a + k) = some vs[k] := by
  rw [read_writeRun, if_pos (by omega), Nat.add_sub_cancel_left, List.getElem?_eq_getElem h]

theorem isSome_read_writeRun (m : Memory) (a b : Nat) (vs : List Byte) (h : (m.read b).isSome = true) :
    ((m.writeRun a vs).read b).isSome = true := by
  rw [read_writeRun]
  split
  · rw [List.getElem?_eq_getElem (by omega)]; rfl
  · exact h

theorem writeRun_wf {m : Memory} (a : Nat) (vs : List Byte) (h : m.wf) : (m.writeRun a vs).wf := by
  induction vs generalizing m a with
  | nil => exact h
  | cons v vs ih => exact ih _ (write_wf a v h)

theorem mem_writeRun {m : Memory} {a : Nat} {vs : List Byte} {c : Host.Cell} (h : c ∈ m.writeRun a vs) :
    (a ≤ c.1 ∧ c.1 < a + vs.length) ∨ c ∈ m := by
  induction vs generalizing m a with
  | nil => exact .inr h
  | cons v vs ih =>
    rcases ih h with h | h
    · exact .inl (by simp only [List.length_cons]; omega)
    · rcases mem_write h with rfl | h
      · exact .inl (by simp)
      · exact .inr h

/-! ## Equal memories are equal data -/

theorem read_none_of_lt {m : Memory} {a : Nat} (h : ∀ c ∈ m, a < c.1) : m.read a = none := by
  induction m with
  | nil => rfl
  | cons c m ih =>
    have hc := h c (by simp)
    rw [Memory.read, if_neg (by omega), ih (fun d hd => h d (by simp [hd]))]

theorem Memory.eq_of_read {m n : Memory} (hm : m.wf) (hn : n.wf) (h : ∀ a, m.read a = n.read a) : m = n := by
  induction m generalizing n with
  | nil =>
    cases n with
    | nil => rfl
    | cons d n => exact absurd (h d.1) (by simp [Memory.read])
  | cons c m ih =>
    obtain ⟨hc, hm'⟩ := List.pairwise_cons.1 hm
    cases n with
    | nil => exact absurd (h c.1) (by simp [Memory.read])
    | cons d n =>
      obtain ⟨hd, hn'⟩ := List.pairwise_cons.1 hn
      have hk : c.1 = d.1 := by
        rcases Nat.lt_trichotomy c.1 d.1 with hlt | heq | hgt
        · have := h c.1
          rw [Memory.read, if_pos rfl, read_none_of_lt (m := d :: n)] at this
          · cases this
          · intro e he
            rcases List.mem_cons.1 he with rfl | he
            · exact hlt
            · exact hlt.trans (hd e he)
        · exact heq
        · have := h d.1
          rw [Memory.read.eq_def (d :: n)] at this
          simp only [if_pos] at this
          rw [read_none_of_lt (m := c :: m)] at this
          · cases this
          · intro e he
            rcases List.mem_cons.1 he with rfl | he
            · exact hgt
            · exact hgt.trans (hc e he)
      have hv : c.2 = d.2 := by
        have := h c.1
        simpa [Memory.read, hk] using this
      have hcd : c = d := Prod.ext hk hv
      subst hcd
      congr 1
      refine ih hm' hn' fun a => ?_
      by_cases ha : c.1 = a
      · subst ha
        rw [read_none_of_lt hc, read_none_of_lt hd]
      · simpa [Memory.read, ha] using h a

end Sys2Proof.Machine
end

