-- ==== Sys2Proof/Laws/State.lean ====
section
/-! SUPPORT. One lemma per field of State for each named update of it, true by rfl: what the update writes and what it leaves. -/

namespace Sys2Proof.Machine

/-! ### `storeByte` -/

@[simp] theorem storeByte_par (a : Nat) (v : Byte) (s : State) : (storeByte a v s).par = s.par := rfl
@[simp] theorem storeByte_mem (a : Nat) (v : Byte) (s : State) : (storeByte a v s).mem = s.mem.write a v := rfl
@[simp] theorem storeByte_txLen (a : Nat) (v : Byte) (s : State) : (storeByte a v s).txLen = s.txLen := rfl
@[simp] theorem storeByte_txActive (a : Nat) (v : Byte) (s : State) : (storeByte a v s).txActive = s.txActive := rfl
@[simp] theorem storeByte_txSent (a : Nat) (v : Byte) (s : State) : (storeByte a v s).txSent = s.txSent := rfl
@[simp] theorem storeByte_rxWcur (a : Nat) (v : Byte) (s : State) : (storeByte a v s).rxWcur = s.rxWcur := rfl
@[simp] theorem storeByte_rcur (a : Nat) (v : Byte) (s : State) : (storeByte a v s).rcur = s.rcur := rfl
@[simp] theorem storeByte_rcurValid (a : Nat) (v : Byte) (s : State) : (storeByte a v s).rcurValid = s.rcurValid := rfl
@[simp] theorem storeByte_rxStarted (a : Nat) (v : Byte) (s : State) : (storeByte a v s).rxStarted = s.rxStarted := rfl
@[simp] theorem storeByte_irqMask (a : Nat) (v : Byte) (s : State) : (storeByte a v s).irqMask = s.irqMask := rfl
@[simp] theorem storeByte_irqPend (a : Nat) (v : Byte) (s : State) : (storeByte a v s).irqPend = s.irqPend := rfl
@[simp] theorem storeByte_cfg (a : Nat) (v : Byte) (s : State) : (storeByte a v s).cfg = s.cfg := rfl
@[simp] theorem storeByte_flt (a : Nat) (v : Byte) (s : State) : (storeByte a v s).flt = s.flt := rfl
@[simp] theorem storeByte_ph (a : Nat) (v : Byte) (s : State) : (storeByte a v s).ph = s.ph := rfl
@[simp] theorem storeByte_opN (a : Nat) (v : Byte) (s : State) : (storeByte a v s).opN = s.opN := rfl
@[simp] theorem storeByte_opBytes (a : Nat) (v : Byte) (s : State) : (storeByte a v s).opBytes = s.opBytes := rfl
@[simp] theorem storeByte_sL (a : Nat) (v : Byte) (s : State) : (storeByte a v s).sL = s.sL := rfl
@[simp] theorem storeByte_csSaved (a : Nat) (v : Byte) (s : State) : (storeByte a v s).csSaved = s.csSaved := rfl
@[simp] theorem storeByte_snap (a : Nat) (v : Byte) (s : State) : (storeByte a v s).snap = s.snap := rfl
@[simp] theorem storeByte_dptr (a : Nat) (v : Byte) (s : State) : (storeByte a v s).dptr = s.dptr := rfl
@[simp] theorem storeByte_dend (a : Nat) (v : Byte) (s : State) : (storeByte a v s).dend = s.dend := rfl
@[simp] theorem storeByte_dcnt (a : Nat) (v : Byte) (s : State) : (storeByte a v s).dcnt = s.dcnt := rfl
@[simp] theorem storeByte_obs (a : Nat) (v : Byte) (s : State) : (storeByte a v s).obs = s.obs := rfl
@[simp] theorem storeByte_fltInfo (a : Nat) (v : Byte) (s : State) : (storeByte a v s).fltInfo = s.fltInfo := rfl
@[simp] theorem storeByte_draws (a : Nat) (v : Byte) (s : State) : (storeByte a v s).draws = s.draws := rfl
@[simp] theorem storeByte_port (a : Nat) (v : Byte) (s : State) : (storeByte a v s).port = s.port := rfl
@[simp] theorem storeByte_sched (a : Nat) (v : Byte) (s : State) : (storeByte a v s).sched = s.sched := rfl

/-! ### `storeRun` -/

@[simp] theorem storeRun_par (a : Nat) (vs : List Byte) (s : State) : (storeRun a vs s).par = s.par := rfl
@[simp] theorem storeRun_mem (a : Nat) (vs : List Byte) (s : State) : (storeRun a vs s).mem = s.mem.writeRun a vs := rfl
@[simp] theorem storeRun_txLen (a : Nat) (vs : List Byte) (s : State) : (storeRun a vs s).txLen = s.txLen := rfl
@[simp] theorem storeRun_txActive (a : Nat) (vs : List Byte) (s : State) : (storeRun a vs s).txActive = s.txActive := rfl
@[simp] theorem storeRun_txSent (a : Nat) (vs : List Byte) (s : State) : (storeRun a vs s).txSent = s.txSent := rfl
@[simp] theorem storeRun_rxWcur (a : Nat) (vs : List Byte) (s : State) : (storeRun a vs s).rxWcur = s.rxWcur := rfl
@[simp] theorem storeRun_rcur (a : Nat) (vs : List Byte) (s : State) : (storeRun a vs s).rcur = s.rcur := rfl
@[simp] theorem storeRun_rcurValid (a : Nat) (vs : List Byte) (s : State) : (storeRun a vs s).rcurValid = s.rcurValid := rfl
@[simp] theorem storeRun_rxStarted (a : Nat) (vs : List Byte) (s : State) : (storeRun a vs s).rxStarted = s.rxStarted := rfl
@[simp] theorem storeRun_irqMask (a : Nat) (vs : List Byte) (s : State) : (storeRun a vs s).irqMask = s.irqMask := rfl
@[simp] theorem storeRun_irqPend (a : Nat) (vs : List Byte) (s : State) : (storeRun a vs s).irqPend = s.irqPend := rfl
@[simp] theorem storeRun_cfg (a : Nat) (vs : List Byte) (s : State) : (storeRun a vs s).cfg = s.cfg := rfl
@[simp] theorem storeRun_flt (a : Nat) (vs : List Byte) (s : State) : (storeRun a vs s).flt = s.flt := rfl
@[simp] theorem storeRun_ph (a : Nat) (vs : List Byte) (s : State) : (storeRun a vs s).ph = s.ph := rfl
@[simp] theorem storeRun_opN (a : Nat) (vs : List Byte) (s : State) : (storeRun a vs s).opN = s.opN := rfl
@[simp] theorem storeRun_opBytes (a : Nat) (vs : List Byte) (s : State) : (storeRun a vs s).opBytes = s.opBytes := rfl
@[simp] theorem storeRun_sL (a : Nat) (vs : List Byte) (s : State) : (storeRun a vs s).sL = s.sL := rfl
@[simp] theorem storeRun_csSaved (a : Nat) (vs : List Byte) (s : State) : (storeRun a vs s).csSaved = s.csSaved := rfl
@[simp] theorem storeRun_snap (a : Nat) (vs : List Byte) (s : State) : (storeRun a vs s).snap = s.snap := rfl
@[simp] theorem storeRun_dptr (a : Nat) (vs : List Byte) (s : State) : (storeRun a vs s).dptr = s.dptr := rfl
@[simp] theorem storeRun_dend (a : Nat) (vs : List Byte) (s : State) : (storeRun a vs s).dend = s.dend := rfl
@[simp] theorem storeRun_dcnt (a : Nat) (vs : List Byte) (s : State) : (storeRun a vs s).dcnt = s.dcnt := rfl
@[simp] theorem storeRun_obs (a : Nat) (vs : List Byte) (s : State) : (storeRun a vs s).obs = s.obs := rfl
@[simp] theorem storeRun_fltInfo (a : Nat) (vs : List Byte) (s : State) : (storeRun a vs s).fltInfo = s.fltInfo := rfl
@[simp] theorem storeRun_draws (a : Nat) (vs : List Byte) (s : State) : (storeRun a vs s).draws = s.draws := rfl
@[simp] theorem storeRun_port (a : Nat) (vs : List Byte) (s : State) : (storeRun a vs s).port = s.port := rfl
@[simp] theorem storeRun_sched (a : Nat) (vs : List Byte) (s : State) : (storeRun a vs s).sched = s.sched := rfl

/-! ### `respond` -/

@[simp] theorem respond_par (st : BitVec 4) (d : Word) (s : State) : (respond st d s).par = s.par := rfl
@[simp] theorem respond_mem (st : BitVec 4) (d : Word) (s : State) : (respond st d s).mem = s.mem := rfl
@[simp] theorem respond_txLen (st : BitVec 4) (d : Word) (s : State) : (respond st d s).txLen = s.txLen := rfl
@[simp] theorem respond_txActive (st : BitVec 4) (d : Word) (s : State) : (respond st d s).txActive = s.txActive := rfl
@[simp] theorem respond_txSent (st : BitVec 4) (d : Word) (s : State) : (respond st d s).txSent = s.txSent := rfl
@[simp] theorem respond_rxWcur (st : BitVec 4) (d : Word) (s : State) : (respond st d s).rxWcur = s.rxWcur := rfl
@[simp] theorem respond_rcur (st : BitVec 4) (d : Word) (s : State) : (respond st d s).rcur = s.rcur := rfl
@[simp] theorem respond_rcurValid (st : BitVec 4) (d : Word) (s : State) : (respond st d s).rcurValid = s.rcurValid := rfl
@[simp] theorem respond_rxStarted (st : BitVec 4) (d : Word) (s : State) : (respond st d s).rxStarted = s.rxStarted := rfl
@[simp] theorem respond_irqMask (st : BitVec 4) (d : Word) (s : State) : (respond st d s).irqMask = s.irqMask := rfl
@[simp] theorem respond_irqPend (st : BitVec 4) (d : Word) (s : State) : (respond st d s).irqPend = s.irqPend := rfl
@[simp] theorem respond_cfg (st : BitVec 4) (d : Word) (s : State) : (respond st d s).cfg = s.cfg := rfl
@[simp] theorem respond_flt (st : BitVec 4) (d : Word) (s : State) : (respond st d s).flt = s.flt := rfl
@[simp] theorem respond_ph (st : BitVec 4) (d : Word) (s : State) : (respond st d s).ph = s.ph := rfl
@[simp] theorem respond_opN (st : BitVec 4) (d : Word) (s : State) : (respond st d s).opN = s.opN := rfl
@[simp] theorem respond_opBytes (st : BitVec 4) (d : Word) (s : State) : (respond st d s).opBytes = s.opBytes := rfl
@[simp] theorem respond_sL (st : BitVec 4) (d : Word) (s : State) : (respond st d s).sL = s.sL := rfl
@[simp] theorem respond_csSaved (st : BitVec 4) (d : Word) (s : State) : (respond st d s).csSaved = s.csSaved := rfl
@[simp] theorem respond_snap (st : BitVec 4) (d : Word) (s : State) : (respond st d s).snap = s.snap := rfl
@[simp] theorem respond_dptr (st : BitVec 4) (d : Word) (s : State) : (respond st d s).dptr = s.dptr := rfl
@[simp] theorem respond_dend (st : BitVec 4) (d : Word) (s : State) : (respond st d s).dend = s.dend := rfl
@[simp] theorem respond_dcnt (st : BitVec 4) (d : Word) (s : State) : (respond st d s).dcnt = s.dcnt := rfl
@[simp] theorem respond_obs (st : BitVec 4) (d : Word) (s : State) : (respond st d s).obs = { s.obs with rspLog := s.obs.rspLog ++ [⟨st, d⟩] } := rfl
@[simp] theorem respond_fltInfo (st : BitVec 4) (d : Word) (s : State) : (respond st d s).fltInfo = s.fltInfo := rfl
@[simp] theorem respond_draws (st : BitVec 4) (d : Word) (s : State) : (respond st d s).draws = s.draws := rfl
@[simp] theorem respond_port (st : BitVec 4) (d : Word) (s : State) : (respond st d s).port = s.port := rfl
@[simp] theorem respond_sched (st : BitVec 4) (d : Word) (s : State) : (respond st d s).sched = s.sched := rfl

/-! ### `emitWireOut` -/

@[simp] theorem emitWireOut_par (v : Byte) (s : State) : (emitWireOut v s).par = s.par := rfl
@[simp] theorem emitWireOut_mem (v : Byte) (s : State) : (emitWireOut v s).mem = s.mem := rfl
@[simp] theorem emitWireOut_txLen (v : Byte) (s : State) : (emitWireOut v s).txLen = s.txLen := rfl
@[simp] theorem emitWireOut_txActive (v : Byte) (s : State) : (emitWireOut v s).txActive = s.txActive := rfl
@[simp] theorem emitWireOut_txSent (v : Byte) (s : State) : (emitWireOut v s).txSent = s.txSent := rfl
@[simp] theorem emitWireOut_rxWcur (v : Byte) (s : State) : (emitWireOut v s).rxWcur = s.rxWcur := rfl
@[simp] theorem emitWireOut_rcur (v : Byte) (s : State) : (emitWireOut v s).rcur = s.rcur := rfl
@[simp] theorem emitWireOut_rcurValid (v : Byte) (s : State) : (emitWireOut v s).rcurValid = s.rcurValid := rfl
@[simp] theorem emitWireOut_rxStarted (v : Byte) (s : State) : (emitWireOut v s).rxStarted = s.rxStarted := rfl
@[simp] theorem emitWireOut_irqMask (v : Byte) (s : State) : (emitWireOut v s).irqMask = s.irqMask := rfl
@[simp] theorem emitWireOut_irqPend (v : Byte) (s : State) : (emitWireOut v s).irqPend = s.irqPend := rfl
@[simp] theorem emitWireOut_cfg (v : Byte) (s : State) : (emitWireOut v s).cfg = s.cfg := rfl
@[simp] theorem emitWireOut_flt (v : Byte) (s : State) : (emitWireOut v s).flt = s.flt := rfl
@[simp] theorem emitWireOut_ph (v : Byte) (s : State) : (emitWireOut v s).ph = s.ph := rfl
@[simp] theorem emitWireOut_opN (v : Byte) (s : State) : (emitWireOut v s).opN = s.opN := rfl
@[simp] theorem emitWireOut_opBytes (v : Byte) (s : State) : (emitWireOut v s).opBytes = s.opBytes := rfl
@[simp] theorem emitWireOut_sL (v : Byte) (s : State) : (emitWireOut v s).sL = s.sL := rfl
@[simp] theorem emitWireOut_csSaved (v : Byte) (s : State) : (emitWireOut v s).csSaved = s.csSaved := rfl
@[simp] theorem emitWireOut_snap (v : Byte) (s : State) : (emitWireOut v s).snap = s.snap := rfl
@[simp] theorem emitWireOut_dptr (v : Byte) (s : State) : (emitWireOut v s).dptr = s.dptr := rfl
@[simp] theorem emitWireOut_dend (v : Byte) (s : State) : (emitWireOut v s).dend = s.dend := rfl
@[simp] theorem emitWireOut_dcnt (v : Byte) (s : State) : (emitWireOut v s).dcnt = s.dcnt := rfl
@[simp] theorem emitWireOut_obs (v : Byte) (s : State) : (emitWireOut v s).obs = { s.obs with wireOut := s.obs.wireOut ++ [v] } := rfl
@[simp] theorem emitWireOut_fltInfo (v : Byte) (s : State) : (emitWireOut v s).fltInfo = s.fltInfo := rfl
@[simp] theorem emitWireOut_draws (v : Byte) (s : State) : (emitWireOut v s).draws = s.draws := rfl
@[simp] theorem emitWireOut_port (v : Byte) (s : State) : (emitWireOut v s).port = s.port := rfl
@[simp] theorem emitWireOut_sched (v : Byte) (s : State) : (emitWireOut v s).sched = s.sched := rfl

/-! ### `emitWireIn` -/

@[simp] theorem emitWireIn_par (v : Byte) (s : State) : (emitWireIn v s).par = s.par := rfl
@[simp] theorem emitWireIn_mem (v : Byte) (s : State) : (emitWireIn v s).mem = s.mem := rfl
@[simp] theorem emitWireIn_txLen (v : Byte) (s : State) : (emitWireIn v s).txLen = s.txLen := rfl
@[simp] theorem emitWireIn_txActive (v : Byte) (s : State) : (emitWireIn v s).txActive = s.txActive := rfl
@[simp] theorem emitWireIn_txSent (v : Byte) (s : State) : (emitWireIn v s).txSent = s.txSent := rfl
@[simp] theorem emitWireIn_rxWcur (v : Byte) (s : State) : (emitWireIn v s).rxWcur = s.rxWcur := rfl
@[simp] theorem emitWireIn_rcur (v : Byte) (s : State) : (emitWireIn v s).rcur = s.rcur := rfl
@[simp] theorem emitWireIn_rcurValid (v : Byte) (s : State) : (emitWireIn v s).rcurValid = s.rcurValid := rfl
@[simp] theorem emitWireIn_rxStarted (v : Byte) (s : State) : (emitWireIn v s).rxStarted = s.rxStarted := rfl
@[simp] theorem emitWireIn_irqMask (v : Byte) (s : State) : (emitWireIn v s).irqMask = s.irqMask := rfl
@[simp] theorem emitWireIn_irqPend (v : Byte) (s : State) : (emitWireIn v s).irqPend = s.irqPend := rfl
@[simp] theorem emitWireIn_cfg (v : Byte) (s : State) : (emitWireIn v s).cfg = s.cfg := rfl
@[simp] theorem emitWireIn_flt (v : Byte) (s : State) : (emitWireIn v s).flt = s.flt := rfl
@[simp] theorem emitWireIn_ph (v : Byte) (s : State) : (emitWireIn v s).ph = s.ph := rfl
@[simp] theorem emitWireIn_opN (v : Byte) (s : State) : (emitWireIn v s).opN = s.opN := rfl
@[simp] theorem emitWireIn_opBytes (v : Byte) (s : State) : (emitWireIn v s).opBytes = s.opBytes := rfl
@[simp] theorem emitWireIn_sL (v : Byte) (s : State) : (emitWireIn v s).sL = s.sL := rfl
@[simp] theorem emitWireIn_csSaved (v : Byte) (s : State) : (emitWireIn v s).csSaved = s.csSaved := rfl
@[simp] theorem emitWireIn_snap (v : Byte) (s : State) : (emitWireIn v s).snap = s.snap := rfl
@[simp] theorem emitWireIn_dptr (v : Byte) (s : State) : (emitWireIn v s).dptr = s.dptr := rfl
@[simp] theorem emitWireIn_dend (v : Byte) (s : State) : (emitWireIn v s).dend = s.dend := rfl
@[simp] theorem emitWireIn_dcnt (v : Byte) (s : State) : (emitWireIn v s).dcnt = s.dcnt := rfl
@[simp] theorem emitWireIn_obs (v : Byte) (s : State) : (emitWireIn v s).obs = { s.obs with wireIn := s.obs.wireIn ++ [v] } := rfl
@[simp] theorem emitWireIn_fltInfo (v : Byte) (s : State) : (emitWireIn v s).fltInfo = s.fltInfo := rfl
@[simp] theorem emitWireIn_draws (v : Byte) (s : State) : (emitWireIn v s).draws = s.draws := rfl
@[simp] theorem emitWireIn_port (v : Byte) (s : State) : (emitWireIn v s).port = s.port := rfl
@[simp] theorem emitWireIn_sched (v : Byte) (s : State) : (emitWireIn v s).sched = s.sched := rfl

/-! ### `emitDrain` -/

@[simp] theorem emitDrain_par (v : Byte) (s : State) : (emitDrain v s).par = s.par := rfl
@[simp] theorem emitDrain_mem (v : Byte) (s : State) : (emitDrain v s).mem = s.mem := rfl
@[simp] theorem emitDrain_txLen (v : Byte) (s : State) : (emitDrain v s).txLen = s.txLen := rfl
@[simp] theorem emitDrain_txActive (v : Byte) (s : State) : (emitDrain v s).txActive = s.txActive := rfl
@[simp] theorem emitDrain_txSent (v : Byte) (s : State) : (emitDrain v s).txSent = s.txSent := rfl
@[simp] theorem emitDrain_rxWcur (v : Byte) (s : State) : (emitDrain v s).rxWcur = s.rxWcur := rfl
@[simp] theorem emitDrain_rcur (v : Byte) (s : State) : (emitDrain v s).rcur = s.rcur := rfl
@[simp] theorem emitDrain_rcurValid (v : Byte) (s : State) : (emitDrain v s).rcurValid = s.rcurValid := rfl
@[simp] theorem emitDrain_rxStarted (v : Byte) (s : State) : (emitDrain v s).rxStarted = s.rxStarted := rfl
@[simp] theorem emitDrain_irqMask (v : Byte) (s : State) : (emitDrain v s).irqMask = s.irqMask := rfl
@[simp] theorem emitDrain_irqPend (v : Byte) (s : State) : (emitDrain v s).irqPend = s.irqPend := rfl
@[simp] theorem emitDrain_cfg (v : Byte) (s : State) : (emitDrain v s).cfg = s.cfg := rfl
@[simp] theorem emitDrain_flt (v : Byte) (s : State) : (emitDrain v s).flt = s.flt := rfl
@[simp] theorem emitDrain_ph (v : Byte) (s : State) : (emitDrain v s).ph = s.ph := rfl
@[simp] theorem emitDrain_opN (v : Byte) (s : State) : (emitDrain v s).opN = s.opN := rfl
@[simp] theorem emitDrain_opBytes (v : Byte) (s : State) : (emitDrain v s).opBytes = s.opBytes := rfl
@[simp] theorem emitDrain_sL (v : Byte) (s : State) : (emitDrain v s).sL = s.sL := rfl
@[simp] theorem emitDrain_csSaved (v : Byte) (s : State) : (emitDrain v s).csSaved = s.csSaved := rfl
@[simp] theorem emitDrain_snap (v : Byte) (s : State) : (emitDrain v s).snap = s.snap := rfl
@[simp] theorem emitDrain_dptr (v : Byte) (s : State) : (emitDrain v s).dptr = s.dptr := rfl
@[simp] theorem emitDrain_dend (v : Byte) (s : State) : (emitDrain v s).dend = s.dend := rfl
@[simp] theorem emitDrain_dcnt (v : Byte) (s : State) : (emitDrain v s).dcnt = s.dcnt := rfl
@[simp] theorem emitDrain_obs (v : Byte) (s : State) : (emitDrain v s).obs = { s.obs with drainOut := s.obs.drainOut ++ [.byte v] } := rfl
@[simp] theorem emitDrain_fltInfo (v : Byte) (s : State) : (emitDrain v s).fltInfo = s.fltInfo := rfl
@[simp] theorem emitDrain_draws (v : Byte) (s : State) : (emitDrain v s).draws = s.draws := rfl
@[simp] theorem emitDrain_port (v : Byte) (s : State) : (emitDrain v s).port = s.port := rfl
@[simp] theorem emitDrain_sched (v : Byte) (s : State) : (emitDrain v s).sched = s.sched := rfl

/-! ### `emitIrq` -/

@[simp] theorem emitIrq_par (s : State) : (emitIrq s).par = s.par := rfl
@[simp] theorem emitIrq_mem (s : State) : (emitIrq s).mem = s.mem := rfl
@[simp] theorem emitIrq_txLen (s : State) : (emitIrq s).txLen = s.txLen := rfl
@[simp] theorem emitIrq_txActive (s : State) : (emitIrq s).txActive = s.txActive := rfl
@[simp] theorem emitIrq_txSent (s : State) : (emitIrq s).txSent = s.txSent := rfl
@[simp] theorem emitIrq_rxWcur (s : State) : (emitIrq s).rxWcur = s.rxWcur := rfl
@[simp] theorem emitIrq_rcur (s : State) : (emitIrq s).rcur = s.rcur := rfl
@[simp] theorem emitIrq_rcurValid (s : State) : (emitIrq s).rcurValid = s.rcurValid := rfl
@[simp] theorem emitIrq_rxStarted (s : State) : (emitIrq s).rxStarted = s.rxStarted := rfl
@[simp] theorem emitIrq_irqMask (s : State) : (emitIrq s).irqMask = s.irqMask := rfl
@[simp] theorem emitIrq_irqPend (s : State) : (emitIrq s).irqPend = s.irqPend := rfl
@[simp] theorem emitIrq_cfg (s : State) : (emitIrq s).cfg = s.cfg := rfl
@[simp] theorem emitIrq_flt (s : State) : (emitIrq s).flt = s.flt := rfl
@[simp] theorem emitIrq_ph (s : State) : (emitIrq s).ph = s.ph := rfl
@[simp] theorem emitIrq_opN (s : State) : (emitIrq s).opN = s.opN := rfl
@[simp] theorem emitIrq_opBytes (s : State) : (emitIrq s).opBytes = s.opBytes := rfl
@[simp] theorem emitIrq_sL (s : State) : (emitIrq s).sL = s.sL := rfl
@[simp] theorem emitIrq_csSaved (s : State) : (emitIrq s).csSaved = s.csSaved := rfl
@[simp] theorem emitIrq_snap (s : State) : (emitIrq s).snap = s.snap := rfl
@[simp] theorem emitIrq_dptr (s : State) : (emitIrq s).dptr = s.dptr := rfl
@[simp] theorem emitIrq_dend (s : State) : (emitIrq s).dend = s.dend := rfl
@[simp] theorem emitIrq_dcnt (s : State) : (emitIrq s).dcnt = s.dcnt := rfl
@[simp] theorem emitIrq_obs (s : State) : (emitIrq s).obs = { s.obs with irqLog := s.obs.irqLog ++ [.taken] } := rfl
@[simp] theorem emitIrq_fltInfo (s : State) : (emitIrq s).fltInfo = s.fltInfo := rfl
@[simp] theorem emitIrq_draws (s : State) : (emitIrq s).draws = s.draws := rfl
@[simp] theorem emitIrq_port (s : State) : (emitIrq s).port = s.port := rfl
@[simp] theorem emitIrq_sched (s : State) : (emitIrq s).sched = s.sched := rfl

/-! ### `respondDrain` -/

@[simp] theorem respondDrain_par (c : Len) (s : State) : (respondDrain c s).par = s.par := rfl
@[simp] theorem respondDrain_mem (c : Len) (s : State) : (respondDrain c s).mem = s.mem := rfl
@[simp] theorem respondDrain_txLen (c : Len) (s : State) : (respondDrain c s).txLen = s.txLen := rfl
@[simp] theorem respondDrain_txActive (c : Len) (s : State) : (respondDrain c s).txActive = s.txActive := rfl
@[simp] theorem respondDrain_txSent (c : Len) (s : State) : (respondDrain c s).txSent = s.txSent := rfl
@[simp] theorem respondDrain_rxWcur (c : Len) (s : State) : (respondDrain c s).rxWcur = s.rxWcur := rfl
@[simp] theorem respondDrain_rcur (c : Len) (s : State) : (respondDrain c s).rcur = s.rcur := rfl
@[simp] theorem respondDrain_rcurValid (c : Len) (s : State) : (respondDrain c s).rcurValid = s.rcurValid := rfl
@[simp] theorem respondDrain_rxStarted (c : Len) (s : State) : (respondDrain c s).rxStarted = s.rxStarted := rfl
@[simp] theorem respondDrain_irqMask (c : Len) (s : State) : (respondDrain c s).irqMask = s.irqMask := rfl
@[simp] theorem respondDrain_irqPend (c : Len) (s : State) : (respondDrain c s).irqPend = s.irqPend := rfl
@[simp] theorem respondDrain_cfg (c : Len) (s : State) : (respondDrain c s).cfg = s.cfg := rfl
@[simp] theorem respondDrain_flt (c : Len) (s : State) : (respondDrain c s).flt = s.flt := rfl
@[simp] theorem respondDrain_ph (c : Len) (s : State) : (respondDrain c s).ph = s.ph := rfl
@[simp] theorem respondDrain_opN (c : Len) (s : State) : (respondDrain c s).opN = s.opN := rfl
@[simp] theorem respondDrain_opBytes (c : Len) (s : State) : (respondDrain c s).opBytes = s.opBytes := rfl
@[simp] theorem respondDrain_sL (c : Len) (s : State) : (respondDrain c s).sL = s.sL := rfl
@[simp] theorem respondDrain_csSaved (c : Len) (s : State) : (respondDrain c s).csSaved = s.csSaved := rfl
@[simp] theorem respondDrain_snap (c : Len) (s : State) : (respondDrain c s).snap = s.snap := rfl
@[simp] theorem respondDrain_dptr (c : Len) (s : State) : (respondDrain c s).dptr = s.dptr := rfl
@[simp] theorem respondDrain_dend (c : Len) (s : State) : (respondDrain c s).dend = s.dend := rfl
@[simp] theorem respondDrain_dcnt (c : Len) (s : State) : (respondDrain c s).dcnt = s.dcnt := rfl
@[simp] theorem respondDrain_obs (c : Len) (s : State) : (respondDrain c s).obs = { s.obs with drainOut := s.obs.drainOut ++ [.close], rspLog := s.obs.rspLog ++ [⟨0, zext32 c⟩] } := rfl
@[simp] theorem respondDrain_fltInfo (c : Len) (s : State) : (respondDrain c s).fltInfo = s.fltInfo := rfl
@[simp] theorem respondDrain_draws (c : Len) (s : State) : (respondDrain c s).draws = s.draws := rfl
@[simp] theorem respondDrain_port (c : Len) (s : State) : (respondDrain c s).port = s.port := rfl
@[simp] theorem respondDrain_sched (c : Len) (s : State) : (respondDrain c s).sched = s.sched := rfl

/-! ### `respondSubmitted` -/

@[simp] theorem respondSubmitted_par (s : State) : (respondSubmitted s).par = s.par := rfl
@[simp] theorem respondSubmitted_mem (s : State) : (respondSubmitted s).mem = s.mem := rfl
@[simp] theorem respondSubmitted_txLen (s : State) : (respondSubmitted s).txLen = s.txLen := rfl
@[simp] theorem respondSubmitted_txActive (s : State) : (respondSubmitted s).txActive = s.txActive := rfl
@[simp] theorem respondSubmitted_txSent (s : State) : (respondSubmitted s).txSent = s.txSent := rfl
@[simp] theorem respondSubmitted_rxWcur (s : State) : (respondSubmitted s).rxWcur = s.rxWcur := rfl
@[simp] theorem respondSubmitted_rcur (s : State) : (respondSubmitted s).rcur = s.rcur := rfl
@[simp] theorem respondSubmitted_rcurValid (s : State) : (respondSubmitted s).rcurValid = s.rcurValid := rfl
@[simp] theorem respondSubmitted_rxStarted (s : State) : (respondSubmitted s).rxStarted = s.rxStarted := rfl
@[simp] theorem respondSubmitted_irqMask (s : State) : (respondSubmitted s).irqMask = s.irqMask := rfl
@[simp] theorem respondSubmitted_irqPend (s : State) : (respondSubmitted s).irqPend = s.irqPend := rfl
@[simp] theorem respondSubmitted_cfg (s : State) : (respondSubmitted s).cfg = s.cfg := rfl
@[simp] theorem respondSubmitted_flt (s : State) : (respondSubmitted s).flt = s.flt := rfl
@[simp] theorem respondSubmitted_ph (s : State) : (respondSubmitted s).ph = s.ph := rfl
@[simp] theorem respondSubmitted_opN (s : State) : (respondSubmitted s).opN = s.opN := rfl
@[simp] theorem respondSubmitted_opBytes (s : State) : (respondSubmitted s).opBytes = s.opBytes := rfl
@[simp] theorem respondSubmitted_sL (s : State) : (respondSubmitted s).sL = s.sL := rfl
@[simp] theorem respondSubmitted_csSaved (s : State) : (respondSubmitted s).csSaved = s.csSaved := rfl
@[simp] theorem respondSubmitted_snap (s : State) : (respondSubmitted s).snap = s.snap := rfl
@[simp] theorem respondSubmitted_dptr (s : State) : (respondSubmitted s).dptr = s.dptr := rfl
@[simp] theorem respondSubmitted_dend (s : State) : (respondSubmitted s).dend = s.dend := rfl
@[simp] theorem respondSubmitted_dcnt (s : State) : (respondSubmitted s).dcnt = s.dcnt := rfl
@[simp] theorem respondSubmitted_obs (s : State) : (respondSubmitted s).obs = { s.obs with accepted := s.obs.accepted ++ s.opBytes, rspLog := s.obs.rspLog ++ [⟨0, 0⟩] } := rfl
@[simp] theorem respondSubmitted_fltInfo (s : State) : (respondSubmitted s).fltInfo = s.fltInfo := rfl
@[simp] theorem respondSubmitted_draws (s : State) : (respondSubmitted s).draws = s.draws := rfl
@[simp] theorem respondSubmitted_port (s : State) : (respondSubmitted s).port = s.port := rfl
@[simp] theorem respondSubmitted_sched (s : State) : (respondSubmitted s).sched = s.sched := rfl

/-! ### `setMask` -/

@[simp] theorem setMask_par (m : Bool) (s : State) : (setMask m s).par = s.par := rfl
@[simp] theorem setMask_mem (m : Bool) (s : State) : (setMask m s).mem = s.mem := rfl
@[simp] theorem setMask_txLen (m : Bool) (s : State) : (setMask m s).txLen = s.txLen := rfl
@[simp] theorem setMask_txActive (m : Bool) (s : State) : (setMask m s).txActive = s.txActive := rfl
@[simp] theorem setMask_txSent (m : Bool) (s : State) : (setMask m s).txSent = s.txSent := rfl
@[simp] theorem setMask_rxWcur (m : Bool) (s : State) : (setMask m s).rxWcur = s.rxWcur := rfl
@[simp] theorem setMask_rcur (m : Bool) (s : State) : (setMask m s).rcur = s.rcur := rfl
@[simp] theorem setMask_rcurValid (m : Bool) (s : State) : (setMask m s).rcurValid = s.rcurValid := rfl
@[simp] theorem setMask_rxStarted (m : Bool) (s : State) : (setMask m s).rxStarted = s.rxStarted := rfl
@[simp] theorem setMask_irqMask (m : Bool) (s : State) : (setMask m s).irqMask = m := rfl
@[simp] theorem setMask_irqPend (m : Bool) (s : State) : (setMask m s).irqPend = s.irqPend := rfl
@[simp] theorem setMask_cfg (m : Bool) (s : State) : (setMask m s).cfg = s.cfg := rfl
@[simp] theorem setMask_flt (m : Bool) (s : State) : (setMask m s).flt = s.flt := rfl
@[simp] theorem setMask_ph (m : Bool) (s : State) : (setMask m s).ph = s.ph := rfl
@[simp] theorem setMask_opN (m : Bool) (s : State) : (setMask m s).opN = s.opN := rfl
@[simp] theorem setMask_opBytes (m : Bool) (s : State) : (setMask m s).opBytes = s.opBytes := rfl
@[simp] theorem setMask_sL (m : Bool) (s : State) : (setMask m s).sL = s.sL := rfl
@[simp] theorem setMask_csSaved (m : Bool) (s : State) : (setMask m s).csSaved = s.csSaved := rfl
@[simp] theorem setMask_snap (m : Bool) (s : State) : (setMask m s).snap = s.snap := rfl
@[simp] theorem setMask_dptr (m : Bool) (s : State) : (setMask m s).dptr = s.dptr := rfl
@[simp] theorem setMask_dend (m : Bool) (s : State) : (setMask m s).dend = s.dend := rfl
@[simp] theorem setMask_dcnt (m : Bool) (s : State) : (setMask m s).dcnt = s.dcnt := rfl
@[simp] theorem setMask_obs (m : Bool) (s : State) : (setMask m s).obs = s.obs := rfl
@[simp] theorem setMask_fltInfo (m : Bool) (s : State) : (setMask m s).fltInfo = s.fltInfo := rfl
@[simp] theorem setMask_draws (m : Bool) (s : State) : (setMask m s).draws = s.draws := rfl
@[simp] theorem setMask_port (m : Bool) (s : State) : (setMask m s).port = s.port := rfl
@[simp] theorem setMask_sched (m : Bool) (s : State) : (setMask m s).sched = s.sched := rfl

/-! ### `latchPayload` -/

@[simp] theorem latchPayload_par (n : Len) (ps : List Byte) (s : State) : (latchPayload n ps s).par = s.par := rfl
@[simp] theorem latchPayload_mem (n : Len) (ps : List Byte) (s : State) : (latchPayload n ps s).mem = s.mem := rfl
@[simp] theorem latchPayload_txLen (n : Len) (ps : List Byte) (s : State) : (latchPayload n ps s).txLen = s.txLen := rfl
@[simp] theorem latchPayload_txActive (n : Len) (ps : List Byte) (s : State) : (latchPayload n ps s).txActive = s.txActive := rfl
@[simp] theorem latchPayload_txSent (n : Len) (ps : List Byte) (s : State) : (latchPayload n ps s).txSent = s.txSent := rfl
@[simp] theorem latchPayload_rxWcur (n : Len) (ps : List Byte) (s : State) : (latchPayload n ps s).rxWcur = s.rxWcur := rfl
@[simp] theorem latchPayload_rcur (n : Len) (ps : List Byte) (s : State) : (latchPayload n ps s).rcur = s.rcur := rfl
@[simp] theorem latchPayload_rcurValid (n : Len) (ps : List Byte) (s : State) : (latchPayload n ps s).rcurValid = s.rcurValid := rfl
@[simp] theorem latchPayload_rxStarted (n : Len) (ps : List Byte) (s : State) : (latchPayload n ps s).rxStarted = s.rxStarted := rfl
@[simp] theorem latchPayload_irqMask (n : Len) (ps : List Byte) (s : State) : (latchPayload n ps s).irqMask = s.irqMask := rfl
@[simp] theorem latchPayload_irqPend (n : Len) (ps : List Byte) (s : State) : (latchPayload n ps s).irqPend = s.irqPend := rfl
@[simp] theorem latchPayload_cfg (n : Len) (ps : List Byte) (s : State) : (latchPayload n ps s).cfg = s.cfg := rfl
@[simp] theorem latchPayload_flt (n : Len) (ps : List Byte) (s : State) : (latchPayload n ps s).flt = s.flt := rfl
@[simp] theorem latchPayload_ph (n : Len) (ps : List Byte) (s : State) : (latchPayload n ps s).ph = s.ph := rfl
@[simp] theorem latchPayload_opN (n : Len) (ps : List Byte) (s : State) : (latchPayload n ps s).opN = n := rfl
@[simp] theorem latchPayload_opBytes (n : Len) (ps : List Byte) (s : State) : (latchPayload n ps s).opBytes = ps := rfl
@[simp] theorem latchPayload_sL (n : Len) (ps : List Byte) (s : State) : (latchPayload n ps s).sL = s.sL := rfl
@[simp] theorem latchPayload_csSaved (n : Len) (ps : List Byte) (s : State) : (latchPayload n ps s).csSaved = s.csSaved := rfl
@[simp] theorem latchPayload_snap (n : Len) (ps : List Byte) (s : State) : (latchPayload n ps s).snap = s.snap := rfl
@[simp] theorem latchPayload_dptr (n : Len) (ps : List Byte) (s : State) : (latchPayload n ps s).dptr = s.dptr := rfl
@[simp] theorem latchPayload_dend (n : Len) (ps : List Byte) (s : State) : (latchPayload n ps s).dend = s.dend := rfl
@[simp] theorem latchPayload_dcnt (n : Len) (ps : List Byte) (s : State) : (latchPayload n ps s).dcnt = s.dcnt := rfl
@[simp] theorem latchPayload_obs (n : Len) (ps : List Byte) (s : State) : (latchPayload n ps s).obs = s.obs := rfl
@[simp] theorem latchPayload_fltInfo (n : Len) (ps : List Byte) (s : State) : (latchPayload n ps s).fltInfo = s.fltInfo := rfl
@[simp] theorem latchPayload_draws (n : Len) (ps : List Byte) (s : State) : (latchPayload n ps s).draws = s.draws := rfl
@[simp] theorem latchPayload_port (n : Len) (ps : List Byte) (s : State) : (latchPayload n ps s).port = s.port := rfl
@[simp] theorem latchPayload_sched (n : Len) (ps : List Byte) (s : State) : (latchPayload n ps s).sched = s.sched := rfl

/-! ### `takeTurn` -/

@[simp] theorem takeTurn_par (s : State) : (takeTurn s).par = s.par := rfl
@[simp] theorem takeTurn_mem (s : State) : (takeTurn s).mem = s.mem := rfl
@[simp] theorem takeTurn_txLen (s : State) : (takeTurn s).txLen = s.txLen := rfl
@[simp] theorem takeTurn_txActive (s : State) : (takeTurn s).txActive = s.txActive := rfl
@[simp] theorem takeTurn_txSent (s : State) : (takeTurn s).txSent = s.txSent := rfl
@[simp] theorem takeTurn_rxWcur (s : State) : (takeTurn s).rxWcur = s.rxWcur := rfl
@[simp] theorem takeTurn_rcur (s : State) : (takeTurn s).rcur = s.rcur := rfl
@[simp] theorem takeTurn_rcurValid (s : State) : (takeTurn s).rcurValid = s.rcurValid := rfl
@[simp] theorem takeTurn_rxStarted (s : State) : (takeTurn s).rxStarted = s.rxStarted := rfl
@[simp] theorem takeTurn_irqMask (s : State) : (takeTurn s).irqMask = s.irqMask := rfl
@[simp] theorem takeTurn_irqPend (s : State) : (takeTurn s).irqPend = s.irqPend := rfl
@[simp] theorem takeTurn_cfg (s : State) : (takeTurn s).cfg = s.cfg := rfl
@[simp] theorem takeTurn_flt (s : State) : (takeTurn s).flt = s.flt := rfl
@[simp] theorem takeTurn_ph (s : State) : (takeTurn s).ph = s.ph := rfl
@[simp] theorem takeTurn_opN (s : State) : (takeTurn s).opN = s.opN := rfl
@[simp] theorem takeTurn_opBytes (s : State) : (takeTurn s).opBytes = s.opBytes := rfl
@[simp] theorem takeTurn_sL (s : State) : (takeTurn s).sL = s.sL := rfl
@[simp] theorem takeTurn_csSaved (s : State) : (takeTurn s).csSaved = s.csSaved := rfl
@[simp] theorem takeTurn_snap (s : State) : (takeTurn s).snap = s.snap := rfl
@[simp] theorem takeTurn_dptr (s : State) : (takeTurn s).dptr = s.dptr := rfl
@[simp] theorem takeTurn_dend (s : State) : (takeTurn s).dend = s.dend := rfl
@[simp] theorem takeTurn_dcnt (s : State) : (takeTurn s).dcnt = s.dcnt := rfl
@[simp] theorem takeTurn_obs (s : State) : (takeTurn s).obs = s.obs := rfl
@[simp] theorem takeTurn_fltInfo (s : State) : (takeTurn s).fltInfo = s.fltInfo := rfl
@[simp] theorem takeTurn_draws (s : State) : (takeTurn s).draws = s.draws := rfl
@[simp] theorem takeTurn_port (s : State) : (takeTurn s).port = s.port := rfl
@[simp] theorem takeTurn_sched (s : State) : (takeTurn s).sched = s.sched.tail := rfl

/-! ### `takePresented` -/

@[simp] theorem takePresented_par (s : State) : (takePresented s).par = s.par := rfl
@[simp] theorem takePresented_mem (s : State) : (takePresented s).mem = s.mem := rfl
@[simp] theorem takePresented_txLen (s : State) : (takePresented s).txLen = s.txLen := rfl
@[simp] theorem takePresented_txActive (s : State) : (takePresented s).txActive = s.txActive := rfl
@[simp] theorem takePresented_txSent (s : State) : (takePresented s).txSent = s.txSent := rfl
@[simp] theorem takePresented_rxWcur (s : State) : (takePresented s).rxWcur = s.rxWcur := rfl
@[simp] theorem takePresented_rcur (s : State) : (takePresented s).rcur = s.rcur := rfl
@[simp] theorem takePresented_rcurValid (s : State) : (takePresented s).rcurValid = s.rcurValid := rfl
@[simp] theorem takePresented_rxStarted (s : State) : (takePresented s).rxStarted = s.rxStarted := rfl
@[simp] theorem takePresented_irqMask (s : State) : (takePresented s).irqMask = s.irqMask := rfl
@[simp] theorem takePresented_irqPend (s : State) : (takePresented s).irqPend = s.irqPend := rfl
@[simp] theorem takePresented_cfg (s : State) : (takePresented s).cfg = s.cfg := rfl
@[simp] theorem takePresented_flt (s : State) : (takePresented s).flt = s.flt := rfl
@[simp] theorem takePresented_ph (s : State) : (takePresented s).ph = s.ph := rfl
@[simp] theorem takePresented_opN (s : State) : (takePresented s).opN = s.opN := rfl
@[simp] theorem takePresented_opBytes (s : State) : (takePresented s).opBytes = s.opBytes := rfl
@[simp] theorem takePresented_sL (s : State) : (takePresented s).sL = s.sL := rfl
@[simp] theorem takePresented_csSaved (s : State) : (takePresented s).csSaved = s.csSaved := rfl
@[simp] theorem takePresented_snap (s : State) : (takePresented s).snap = s.snap := rfl
@[simp] theorem takePresented_dptr (s : State) : (takePresented s).dptr = s.dptr := rfl
@[simp] theorem takePresented_dend (s : State) : (takePresented s).dend = s.dend := rfl
@[simp] theorem takePresented_dcnt (s : State) : (takePresented s).dcnt = s.dcnt := rfl
@[simp] theorem takePresented_obs (s : State) : (takePresented s).obs = s.obs := rfl
@[simp] theorem takePresented_fltInfo (s : State) : (takePresented s).fltInfo = s.fltInfo := rfl
@[simp] theorem takePresented_draws (s : State) : (takePresented s).draws = s.draws := rfl
@[simp] theorem takePresented_port (s : State) : (takePresented s).port = s.port.tail := rfl
@[simp] theorem takePresented_sched (s : State) : (takePresented s).sched = s.sched := rfl

end Sys2Proof.Machine
end

