-- ==== Sys2Proof/Laws/Ops.lean ====
section
/-! SUPPORT. What each shared operation can do, said once: when it answers a next state, a fault or a refusal, and with which. Later proofs cite these and do not unfold the operations. -/

namespace Sys2Proof.Machine

variable {s t : State} {k : Result} {r : Fault} {e : Refusal}

/-! ## Stopping, faulting, holding -/

@[simp] theorem raise_eq (f : Flt) (n : Nat) (s : State) : raise f n s = .next { s with flt := f, fltInfo := n } := rfl

/-- A machine without a recorded fault runs on. -/
theorem unlessFaulted_noFault (h : s.flt = .noFault) : unlessFaulted s k = k := by simp [unlessFaulted, h]

/-- A recorded fault stops the machine: it answers that fault. -/
theorem unlessFaulted_fault (h : s.flt ≠ .noFault) : ∃ r, unlessFaulted s k = .fault r := by
  simp only [unlessFaulted]
  split
  · rename_i hf; exact absurd hf h
  all_goals exact ⟨_, rfl⟩

theorem unlessFaulted_next (h : unlessFaulted s k = .next t) : s.flt = .noFault ∧ k = .next t := by
  by_cases hf : s.flt = .noFault
  · exact ⟨hf, by rwa [unlessFaulted_noFault hf] at h⟩
  · obtain ⟨r, hr⟩ := unlessFaulted_fault (k := k) hf
    rw [hr] at h; cases h

theorem unlessFaulted_refused (h : unlessFaulted s k = .refused e) : s.flt = .noFault ∧ k = .refused e := by
  by_cases hf : s.flt = .noFault
  · exact ⟨hf, by rwa [unlessFaulted_noFault hf] at h⟩
  · obtain ⟨r, hr⟩ := unlessFaulted_fault (k := k) hf
    rw [hr] at h; cases h

/-- A fault is a recorded one, or the step's own. -/
theorem unlessFaulted_fault_cases (h : unlessFaulted s k = .fault r) : s.flt ≠ .noFault ∨ k = .fault r := by
  by_cases hf : s.flt = .noFault
  · exact .inr (by rwa [unlessFaulted_noFault hf] at h)
  · exact .inl hf

/-- A step of an agent that answers a next state: it took effect, or it held and nothing changed (rule R11). -/
theorem stepWhen_next {en : Bool} (h : stepWhen en s k = .next t) :
    s.flt = .noFault ∧ (en = true ∧ k = .next t ∨ en = false ∧ t = s) := by
  obtain ⟨hf, h⟩ := unlessFaulted_next h
  cases en
  · exact ⟨hf, .inr ⟨rfl, by injection h.symm⟩⟩
  · exact ⟨hf, .inl ⟨rfl, h⟩⟩

theorem stepWhen_enabled {en : Bool} (hf : s.flt = .noFault) (h : en = true) : stepWhen en s k = k := by
  simp [stepWhen, unlessFaulted_noFault hf, h]

theorem stepWhen_hold {en : Bool} (hf : s.flt = .noFault) (h : en = false) : stepWhen en s k = .next s := by
  simp [stepWhen, unlessFaulted_noFault hf, h]

/-- Command acceptance that answers a next state (rule R185). -/
theorem accept_next (h : accept s k = .next t) :
    s.flt = .noFault ∧ (s.ph = .idle ∧ k = .next t ∨ s.ph ≠ .idle ∧ t = s) := by
  obtain ⟨hf, h⟩ := stepWhen_next h
  exact ⟨hf, by simpa using h⟩

theorem accept_idle (hf : s.flt = .noFault) (h : s.ph = .idle) : accept s k = k := stepWhen_enabled hf (by simp [h])

theorem accept_busy (hf : s.flt = .noFault) (h : s.ph ≠ .idle) : accept s k = .next s := stepWhen_hold hf (by simp [h])

/-- A command that needs INIT takes effect, or takes the fault NotConfigured (rule R186). -/
theorem requireCfg_next {opc : Nat} (h : requireCfg opc s k = .next t) :
    s.cfg = true ∧ k = .next t ∨ s.cfg = false ∧ t = { s with flt := .notConfigured, fltInfo := opc } := by
  rw [requireCfg] at h
  split at h
  · rename_i hc; exact .inl ⟨hc, h⟩
  · rename_i hc; exact .inr ⟨by simpa using hc, by injection h.symm⟩

/-! ## Memory access -/

theorem memRead_value {a : Nat} {v : Byte} {f : Byte → Result} (ha : isElement s.par a = true)
    (hv : s.mem.read a = some v) : memRead a s f = f v := by
  simp [memRead, ha, hv]

/-- A read that answers a next state handed on the element's byte, or took the fault UninitRead (rule R68). -/
theorem memRead_next {a : Nat} {f : Byte → Result} (h : memRead a s f = .next t) :
    isElement s.par a = true ∧ ((∃ v, s.mem.read a = some v ∧ f v = .next t) ∨
      (s.mem.read a = none ∧ t = { s with flt := .uninitRead, fltInfo := a })) := by
  rw [memRead] at h
  split at h
  · rename_i ha
    refine ⟨ha, ?_⟩
    split at h
    · rename_i v hv; exact .inl ⟨v, hv, h⟩
    · rename_i hv; exact .inr ⟨hv, by injection h.symm⟩
  · cases h

theorem memWrite_element {a : Nat} {v : Byte} {f : State → Result} (ha : isElement s.par a = true) :
    memWrite a v s f = f (storeByte a v s) := by simp [memWrite, ha]

theorem memWrite_next {a : Nat} {v : Byte} {f : State → Result} (h : memWrite a v s f = .next t) :
    isElement s.par a = true ∧ f (storeByte a v s) = .next t := by
  rw [memWrite] at h
  split at h
  · rename_i ha; exact ⟨ha, h⟩
  · cases h

theorem copyPayload_fits {off : Nat} {f : State → Result} (hl : s.opBytes.length = s.opN.toNat)
    (hb : off + s.opN.toNat ≤ s.par.cTx) : copyPayload off s f = f (storeRun (txAddr s.par off) s.opBytes s) := by
  rw [copyPayload, if_pos hl, if_pos]
  rw [hl]; exact runInMap_txAddr hb

theorem copyPayload_next {off : Nat} {f : State → Result} (h : copyPayload off s f = .next t) :
    s.opBytes.length = s.opN.toNat ∧ runInMap s.par (txAddr s.par off) s.opBytes.length = true ∧
      f (storeRun (txAddr s.par off) s.opBytes s) = .next t := by
  rw [copyPayload] at h
  split at h
  · rename_i hl
    split at h
    · rename_i hb; exact ⟨hl, hb, h⟩
    · cases h
  · cases h

/-! ## Cursors -/

theorem withCursor_of_lt {v : Nat} {f : Len → Result} (h : v < s.par.cRx) : withCursor v s f = f (len v) := by
  simp [withCursor, mkCursor, h]

theorem withCursor_next {v : Nat} {f : Len → Result} (h : withCursor v s f = .next t) :
    v < s.par.cRx ∧ f (len v) = .next t ∨
      s.par.cRx ≤ v ∧ t = { s with flt := .cursorInvalid, fltInfo := v } := by
  rw [withCursor, mkCursor] at h
  split at h
  · rename_i c hc
    split at hc
    · rename_i hv; cases hc; exact .inl ⟨hv, h⟩
    · cases hc
  · rename_i hc
    split at hc
    · cases hc
    · rename_i hv; exact .inr ⟨by omega, by injection h.symm⟩

/-- A channel address handed on: its offset as a cursor, or the fault CursorInvalid with the address (rule R153). -/
theorem withChannelCursor_next {a : Nat} {f : Len → Result} (h : withChannelCursor a s f = .next t) :
    (∃ off < s.par.cRx, a = rxAddr s.par off ∧ f (len off) = .next t) ∨
      rxOff s.par a = none ∧ t = { s with flt := .cursorInvalid, fltInfo := a } := by
  rw [withChannelCursor] at h
  split at h
  · rename_i off ho
    obtain ⟨hlt, ha⟩ := rxOff_some ho
    rcases withCursor_next h with ⟨-, h⟩ | ⟨hge, -⟩
    · exact .inl ⟨off, hlt, ha, h⟩
    · omega
  · rename_i ho
    exact .inr ⟨ho, by injection h.symm⟩

end Sys2Proof.Machine
end

