-- ==== Sys2Proof/Laws/Buffers.lean ====
section
/-! SUPPORT. The two buffers under the two stores: what `txbuf` and `rxbuf` read after RXBYTE's byte and after the copy of S2 and S6, and that no store loses a value (rules R61, R62, R68). -/

namespace Sys2Proof.Machine

variable {s : State}

theorem txbuf_congr {s t : State} (hp : t.par = s.par) (hm : t.mem = s.mem) : t.txbuf = s.txbuf := by
  funext k; simp [State.txbuf, hp, hm]

theorem rxbuf_congr {s t : State} (hp : t.par = s.par) (hm : t.mem = s.mem) : t.rxbuf = s.rxbuf := by
  funext k; simp [State.rxbuf, hp, hm]

/-- A received byte does not touch TxBuffer. -/
theorem txbuf_storeByte_rx (hp : paramsOk s.par = true) {j k : Nat} (b : Byte) (hj : j < s.par.cRx) (hk : k < s.par.cTx) :
    (storeByte (rxAddr s.par j) b s).txbuf k = s.txbuf k := by
  simp only [State.txbuf, storeByte_mem, storeByte_par]
  exact read_write_other _ _ (txAddr_ne_rxAddr hp hk hj)

/-- A received byte is read back from its element, and from no other. -/
theorem rxbuf_storeByte_rx (hs : 1 ≤ s.par.stride) (j k : Nat) (b : Byte) :
    (storeByte (rxAddr s.par j) b s).rxbuf k = if k = j then some b else s.rxbuf k := by
  simp only [State.rxbuf, storeByte_mem, storeByte_par, read_write]
  by_cases h : k = j
  · simp [h]
  · rw [if_neg h, if_neg (fun h' => h (rxAddr_inj hs h'))]

/-- A copied payload is read back from its offsets, and from no other of TxBuffer. -/
theorem txbuf_storeRun (off k : Nat) (vs : List Byte) :
    (storeRun (txAddr s.par off) vs s).txbuf k = if off ≤ k ∧ k < off + vs.length then vs[k - off]? else s.txbuf k := by
  simp only [State.txbuf, storeRun_mem, storeRun_par, read_writeRun, txAddr]
  by_cases h : off ≤ k ∧ k < off + vs.length
  · rw [if_pos h, if_pos (by omega)]; congr 1; omega
  · rw [if_neg h, if_neg (by omega)]

/-- A copied payload does not touch RxBuffer. -/
theorem rxbuf_storeRun (hp : paramsOk s.par = true) {off k : Nat} {vs : List Byte} (hv : off + vs.length ≤ s.par.cTx)
    (hk : k < s.par.cRx) : (storeRun (txAddr s.par off) vs s).rxbuf k = s.rxbuf k := by
  simp only [State.rxbuf, storeRun_mem, storeRun_par]
  refine read_writeRun_outside _ _ ?_
  obtain ⟨-, -, -, -, hs, -, -, hd⟩ := (paramsOk_iff _).1 hp
  have := rxAddr_lt hs hk
  simp only [txAddr, rxAddr] at *
  omega

theorem isSome_txbuf_storeRun (off k : Nat) (vs : List Byte) (h : (s.txbuf k).isSome = true) :
    ((storeRun (txAddr s.par off) vs s).txbuf k).isSome = true := isSome_read_writeRun _ _ _ _ h

theorem isSome_rxbuf_storeByte (a k : Nat) (b : Byte) (h : (s.rxbuf k).isSome = true) :
    ((storeByte a b s).rxbuf k).isSome = true := isSome_read_write _ _ _ _ h

/-- A store at elements keeps every listed address an element. -/
theorem mapped_storeByte {a : Nat} (v : Byte) (ha : isElement s.par a = true)
    (h : ∀ c ∈ s.mem, isElement s.par c.1 = true) : ∀ c ∈ s.mem.write a v, isElement s.par c.1 = true := by
  intro c hc
  rcases mem_write hc with rfl | hc
  · exact ha
  · exact h c hc

theorem mapped_storeRun {off : Nat} (vs : List Byte) (hb : off + vs.length ≤ s.par.cTx)
    (h : ∀ c ∈ s.mem, isElement s.par c.1 = true) :
    ∀ c ∈ s.mem.writeRun (txAddr s.par off) vs, isElement s.par c.1 = true := by
  intro c hc
  rcases mem_writeRun hc with ⟨h1, h2⟩ | hc
  · have := isElement_txAddr (p := s.par) (off := c.1 - s.par.txBase.toNat) (by simp only [txAddr] at *; omega)
    rwa [show txAddr s.par (c.1 - s.par.txBase.toNat) = c.1 by simp only [txAddr] at *; omega] at this
  · exact h c hc

end Sys2Proof.Machine
end

