-- ==== Sys2Proof/Laws/Encoding.lean ====
section
/-! SUPPORT. The fields of a step word read back from the word built of them, and the word rebuilt from its fields (rules R90, R91). -/

namespace Sys2Proof

@[simp] theorem opcOf_mkWord (o : BitVec 4) (b : Byte) (n : Len) : opcOf (mkWord o b n) = o := by
  ext i hi
  simp only [opcOf, mkWord, BitVec.getElem_extractLsb', BitVec.getLsbD_append]
  simp [show ¬ (28 + i < 16) by omega, show ¬ (28 + i - 16 < 8) by omega, show ¬ (28 + i - 16 - 8 < 4) by omega,
    show 28 + i - 16 - 8 - 4 = i by omega, BitVec.getLsbD_eq_getElem, hi]

@[simp] theorem rsvOf_mkWord (o : BitVec 4) (b : Byte) (n : Len) : rsvOf (mkWord o b n) = 0 := by
  ext i hi
  simp only [rsvOf, mkWord, BitVec.getElem_extractLsb', BitVec.getLsbD_append]
  simp [show ¬ (24 + i < 16) by omega, show ¬ (24 + i - 16 < 8) by omega, show (24 + i - 16 - 8 < 4) by omega]

@[simp] theorem bOf_mkWord (o : BitVec 4) (b : Byte) (n : Len) : bOf (mkWord o b n) = b := by
  ext i hi
  simp only [bOf, mkWord, BitVec.getElem_extractLsb', BitVec.getLsbD_append]
  simp [show ¬ (16 + i < 16) by omega, show 16 + i - 16 = i by omega,
    BitVec.getLsbD_eq_getElem, hi]

@[simp] theorem nOf_mkWord (o : BitVec 4) (b : Byte) (n : Len) : nOf (mkWord o b n) = n := by
  ext i hi
  simp only [nOf, mkWord, BitVec.getElem_extractLsb', BitVec.getLsbD_append]
  simp [BitVec.getLsbD_eq_getElem, hi]

/-- Bit 31 is the top bit of `opc`. -/
@[simp] theorem isLabelWord_mkWord (o : BitVec 4) (b : Byte) (n : Len) : isLabelWord (mkWord o b n) = o.getLsbD 3 := by
  simp only [isLabelWord, mkWord, BitVec.getLsbD_append]
  simp

/-- A word whose reserved field is 0 is the word built of its other fields. -/
theorem mkWord_fields {w : Word} (h : rsvOf w = 0) : mkWord (opcOf w) (bOf w) (nOf w) = w := by
  have hr : ∀ j, j < 4 → w.getLsbD (24 + j) = false := by
    intro j hj
    have := congrArg (fun x : BitVec 4 => x.getLsbD j) h
    simpa [rsvOf, hj] using this
  ext i hi
  have hw : (mkWord (opcOf w) (bOf w) (nOf w)).getLsbD i = w.getLsbD i := by
    simp only [mkWord, BitVec.getLsbD_append]
    by_cases h1 : i < 16
    · simp [h1, nOf]
    · by_cases h2 : i - 16 < 8
      · simp [h1, h2, bOf, show 16 + (i - 16) = i by omega]
      · by_cases h3 : i - 16 - 8 < 4
        · have := hr (i - 24) (by omega)
          rw [show 24 + (i - 24) = i by omega] at this
          simp [h1, h2, show i - 16 - 8 = i - 24 by omega, show i - 24 < 4 by omega, this]
        · simp [h1, h2, h3, opcOf, show i - 16 - 8 - 4 < 4 by omega, show 28 + (i - 16 - 8 - 4) = i by omega]
  simpa [BitVec.getLsbD_eq_getElem, hi] using hw

@[simp] theorem holdsExactly_iff (n : Nat) (ps : List Byte) : holdsExactly n ps = true ↔ ps.length = n := by
  induction n generalizing ps with
  | zero => cases ps <;> simp [holdsExactly]
  | succ n ih => cases ps <;> simp [holdsExactly, ih]

@[simp] theorem statusRegOf_number (r : StatusReg) : statusRegOf (statusRegNumber r) = some r := by
  cases r <;> decide

theorem statusRegNumber_of {n : Len} {r : StatusReg} (h : statusRegOf n = some r) : statusRegNumber r = n := by
  unfold statusRegOf at h
  repeat' split at h
  all_goals first | (cases h; simp_all [statusRegNumber]) | cases h

theorem statusRegNumber_lt (r : StatusReg) : (statusRegNumber r).toNat < 8 := by cases r <;> decide

/-! ## What a word that decodes looks like, helper by helper -/

theorem withoutPayload_ok {ps : List Byte} {i j : Instr} (h : withoutPayload ps i = .ok j) : ps = [] ∧ j = i := by
  unfold withoutPayload at h
  split at h
  · rename_i hp; exact ⟨hp, by cases h; rfl⟩
  · cases h

theorem withoutOperand_ok {w : Word} {ps : List Byte} {i j : Instr} (h : withoutOperand w ps i = .ok j) :
    bOf w = 0 ∧ nOf w = 0 ∧ ps = [] ∧ j = i := by
  unfold withoutOperand at h
  split at h
  · cases h
  · rename_i hb
    split at h
    · cases h
    · rename_i hn
      exact ⟨not_not.1 hb, not_not.1 hn, withoutPayload_ok h⟩

theorem decodeSubmit_ok {w : Word} {ps : List Byte} {j : Instr} (h : decodeSubmit w ps = .ok j) :
    bOf w = 0 ∧ ps.length = (nOf w).toNat ∧ j = .submit (nOf w) ps := by
  unfold decodeSubmit at h
  split at h
  · cases h
  · rename_i hb
    split at h
    · rename_i hl
      exact ⟨not_not.1 hb, (holdsExactly_iff _ _).1 hl, by cases h; rfl⟩
    · cases h

theorem decodeCsexit_ok {w : Word} {ps : List Byte} {j : Instr} (h : decodeCsexit w ps = .ok j) :
    bOf w = 0 ∧ ps = [] ∧ ∃ m : Bool, nOf w = (if m then 1 else 0) ∧ j = .csexit m := by
  unfold decodeCsexit at h
  split at h
  · cases h
  · rename_i hb
    split at h
    · rename_i hn
      obtain ⟨hp, hj⟩ := withoutPayload_ok h
      exact ⟨not_not.1 hb, hp, false, hn, hj⟩
    · split at h
      · rename_i hn
        obtain ⟨hp, hj⟩ := withoutPayload_ok h
        exact ⟨not_not.1 hb, hp, true, hn, hj⟩
      · cases h

theorem decodeRdreg_ok {w : Word} {ps : List Byte} {j : Instr} (h : decodeRdreg w ps = .ok j) :
    bOf w = 0 ∧ ps = [] ∧ ∃ r, nOf w = statusRegNumber r ∧ j = .rdreg r := by
  unfold decodeRdreg at h
  split at h
  · cases h
  · rename_i hb
    split at h
    · cases h
    · split at h
      · rename_i r hr
        obtain ⟨hp, hj⟩ := withoutPayload_ok h
        exact ⟨not_not.1 hb, hp, r, (statusRegNumber_of hr).symm, hj⟩
      · cases h

theorem decodeRxbyte_ok {w : Word} {ps : List Byte} {j : Instr} (h : decodeRxbyte w ps = .ok j) :
    nOf w = 0 ∧ ps = [] ∧ j = .rxbyte (bOf w) := by
  unfold decodeRxbyte at h
  split at h
  · cases h
  · rename_i hn
    exact ⟨not_not.1 hn, withoutPayload_ok h⟩

/-- A word that decodes has the fields of the instruction it decodes to, and is followed by its payload. -/
theorem decode_fields {w : Word} {ps : List Byte} {i : Instr} (h : decode w ps = .ok i) :
    rsvOf w = 0 ∧ opcOf w = opcode i ∧ bOf w = operandB i ∧ nOf w = operandN i ∧ payloadOf i = ps ∧ i.wellFormed = true := by
  unfold decode at h
  by_cases hr : rsvOf w = 0
  swap
  · rw [if_pos hr] at h; cases h
  rw [if_neg (not_not.2 hr)] at h
  refine ⟨hr, ?_⟩
  clear hr
  by_cases ho : opcOf w = 0x1
  · rw [if_pos ho] at h; obtain ⟨hb, hn, rfl, rfl⟩ := withoutOperand_ok h; exact ⟨ho, hb, hn, rfl, rfl⟩
  rw [if_neg ho] at h; clear ho
  by_cases ho : opcOf w = 0x2
  · rw [if_pos ho] at h; obtain ⟨hb, hl, rfl⟩ := decodeSubmit_ok h; exact ⟨ho, hb, rfl, rfl, by simp [Instr.wellFormed, hl]⟩
  rw [if_neg ho] at h; clear ho
  by_cases ho : opcOf w = 0x3
  · rw [if_pos ho] at h; obtain ⟨hb, hn, rfl, rfl⟩ := withoutOperand_ok h; exact ⟨ho, hb, hn, rfl, rfl⟩
  rw [if_neg ho] at h; clear ho
  by_cases ho : opcOf w = 0x4
  · rw [if_pos ho] at h; obtain ⟨hb, hn, rfl, rfl⟩ := withoutOperand_ok h; exact ⟨ho, hb, hn, rfl, rfl⟩
  rw [if_neg ho] at h; clear ho
  by_cases ho : opcOf w = 0x5
  · rw [if_pos ho] at h; obtain ⟨hb, rfl, m, hn, rfl⟩ := decodeCsexit_ok h; exact ⟨ho, hb, hn, rfl, rfl⟩
  rw [if_neg ho] at h; clear ho
  by_cases ho : opcOf w = 0x6
  · rw [if_pos ho] at h; obtain ⟨hb, rfl, r, hn, rfl⟩ := decodeRdreg_ok h; exact ⟨ho, hb, hn, rfl, rfl⟩
  rw [if_neg ho] at h; clear ho
  by_cases ho : opcOf w = 0x8
  · rw [if_pos ho] at h; obtain ⟨hn, rfl, rfl⟩ := decodeRxbyte_ok h; exact ⟨ho, rfl, hn, rfl, rfl⟩
  rw [if_neg ho] at h; clear ho
  by_cases ho : opcOf w = 0x9
  · rw [if_pos ho] at h; obtain ⟨hb, hn, rfl, rfl⟩ := withoutOperand_ok h; exact ⟨ho, hb, hn, rfl, rfl⟩
  rw [if_neg ho] at h; clear ho
  by_cases ho : opcOf w = 0xA
  · rw [if_pos ho] at h; obtain ⟨hb, hn, rfl, rfl⟩ := withoutOperand_ok h; exact ⟨ho, hb, hn, rfl, rfl⟩
  rw [if_neg ho] at h; clear ho
  by_cases ho : opcOf w = 0xB
  · rw [if_pos ho] at h; obtain ⟨hb, hn, rfl, rfl⟩ := withoutOperand_ok h; exact ⟨ho, hb, hn, rfl, rfl⟩
  rw [if_neg ho] at h; clear ho
  by_cases ho : opcOf w = 0xC
  · rw [if_pos ho] at h; obtain ⟨hb, hn, rfl, rfl⟩ := withoutOperand_ok h; exact ⟨ho, hb, hn, rfl, rfl⟩
  rw [if_neg ho] at h; clear ho
  by_cases ho : opcOf w = 0xF
  · rw [if_pos ho] at h; obtain ⟨hb, hn, rfl, rfl⟩ := withoutOperand_ok h; exact ⟨ho, hb, hn, rfl, rfl⟩
  rw [if_neg ho] at h; clear ho
  cases h

/-- Labels have `opc[3] = 1` (rule R92). -/
theorem isLabelWord_of_opcOf (w : Word) : isLabelWord w = (opcOf w).getLsbD 3 := by
  rw [isLabelWord, opcOf, BitVec.getLsbD_extractLsb']; rfl

theorem decode_agent {w : Word} {ps : List Byte} {i : Instr} (h : decode w ps = .ok i) :
    isLabelWord w = true ↔ agentOf i ≠ .req := by
  rw [isLabelWord_of_opcOf, (decode_fields h).2.1]
  cases i <;> simp only [opcode, agentOf] <;> decide

/-- What the decoder of labels accepts: the label words that decode. -/
theorem decodeLabel_ok {w : Word} {i : Instr} (h : decodeLabel w = .ok i) :
    isLabelWord w = true ∧ decode w [] = .ok i := by
  unfold decodeLabel at h
  split at h
  · exact ⟨‹_›, h⟩
  · split at h <;> cases h

/-- Why the decoder of labels rejects a word that is no label: a command word that decodes is in the wrong place, any other is
illegal as it stands. -/
theorem decodeLabel_command {w : Word} {e : DecodeError} (hl : isLabelWord w = false) (h : decodeLabel w = .error e) :
    ((∃ i, decode w (zeroPayload w) = .ok i) ∧ e = .commandAsLabel) ∨ decode w (zeroPayload w) = .error e := by
  rw [decodeLabel, hl, if_neg Bool.false_ne_true] at h
  split at h
  · rename_i i hd
    injection h with h
    exact .inl ⟨⟨i, hd⟩, h.symm⟩
  · rename_i e' hd
    exact .inr (hd.trans h)

end Sys2Proof
end

