-- ==== Sys2Proof/Laws/Exec.lean ====
section
/-! SUPPORT. What each instruction, each phase and a step of the machine can do when it answers a next state, said once. -/

namespace Sys2Proof.Machine

variable {s t : State}

/-! ## Commands -/

theorem execInit_next (h : execInit s = .next t) :
    s.flt = .noFault ∧ (s.ph = .idle ∧ s.cfg = false ∧ t = { s with
      txActive := false, txLen := 0, txSent := 0, rxWcur := 0, rxStarted := false, rcurValid := false, irqPend := false
      cfg := true, obs := { s.obs with rspLog := s.obs.rspLog ++ [⟨0, 0⟩] } } ∨ s.ph ≠ .idle ∧ t = s) := by
  obtain ⟨hf, ⟨hp, h⟩ | h⟩ := accept_next h
  · refine ⟨hf, .inl ⟨hp, ?_⟩⟩
    split at h
    · cases h
    · rename_i hc
      exact ⟨by simpa using hc, by injection h.symm⟩
  · exact ⟨hf, .inr h⟩

theorem execSubmit_next {n : Len} {ps : List Byte} (h : execSubmit n ps s = .next t) :
    s.flt = .noFault ∧ (s.ph = .idle ∧ s.cfg = true ∧ t = { s with opN := n, opBytes := ps, ph := .s1 } ∨
      s.ph = .idle ∧ s.cfg = false ∧ t = { s with flt := .notConfigured, fltInfo := 2 } ∨ s.ph ≠ .idle ∧ t = s) := by
  obtain ⟨hf, ⟨hp, h⟩ | h⟩ := accept_next h
  · rcases requireCfg_next h with ⟨hc, h⟩ | ⟨hc, h⟩
    · exact ⟨hf, .inl ⟨hp, hc, by injection h.symm⟩⟩
    · exact ⟨hf, .inr (.inl ⟨hp, hc, h⟩)⟩
  · exact ⟨hf, .inr (.inr h)⟩

theorem execDrain_next (h : execDrain s = .next t) :
    s.flt = .noFault ∧ (s.ph = .idle ∧ s.cfg = true ∧ t = { s with ph := .d1 } ∨
      s.ph = .idle ∧ s.cfg = false ∧ t = { s with flt := .notConfigured, fltInfo := 3 } ∨ s.ph ≠ .idle ∧ t = s) := by
  obtain ⟨hf, ⟨hp, h⟩ | h⟩ := accept_next h
  · rcases requireCfg_next h with ⟨hc, h⟩ | ⟨hc, h⟩
    · exact ⟨hf, .inl ⟨hp, hc, by injection h.symm⟩⟩
    · exact ⟨hf, .inr (.inl ⟨hp, hc, h⟩)⟩
  · exact ⟨hf, .inr (.inr h)⟩

theorem execCsenter_next (h : execCsenter s = .next t) :
    s.flt = .noFault ∧ (s.ph = .idle ∧ t = setMask true (respond 0 (BitVec.ofNat 32 s.irqMask.toNat) s) ∨
      s.ph ≠ .idle ∧ t = s) := by
  obtain ⟨hf, ⟨hp, h⟩ | h⟩ := accept_next h
  · exact ⟨hf, .inl ⟨hp, by injection h.symm⟩⟩
  · exact ⟨hf, .inr h⟩

theorem execCsexit_next {m : Bool} (h : execCsexit m s = .next t) :
    s.flt = .noFault ∧ (s.ph = .idle ∧ t = respond 0 0 (setMask m s) ∨ s.ph ≠ .idle ∧ t = s) := by
  obtain ⟨hf, ⟨hp, h⟩ | h⟩ := accept_next h
  · exact ⟨hf, .inl ⟨hp, by injection h.symm⟩⟩
  · exact ⟨hf, .inr h⟩

theorem spendDraw_eq (r : StatusReg) (s : State) :
    spendDraw r s = { s with draws := if r = .rxrcur ∧ s.rcurValid = false then s.draws + 1 else s.draws } := by
  unfold spendDraw; split <;> rfl

theorem execRdreg_next {r : StatusReg} (h : execRdreg r s = .next t) :
    s.flt = .noFault ∧ (s.ph = .idle ∧ (∃ d, t = { s with
      draws := d, obs := { s.obs with rspLog := s.obs.rspLog ++ [⟨0, s.statusReg r⟩] } }) ∨ s.ph ≠ .idle ∧ t = s) := by
  obtain ⟨hf, ⟨hp, h⟩ | h⟩ := accept_next h
  · rw [spendDraw_eq] at h
    exact ⟨hf, .inl ⟨hp, _, by injection h.symm⟩⟩
  · exact ⟨hf, .inr h⟩

/-! ## The phases of SUBMIT -/

theorem phaseS1_next (h : phaseS1 s = .next t) :
    0 < s.opN.toNat ∧ (t = respondCapacityExceeded s ∨
      s.opN.toNat ≤ s.par.cTx ∧ (s.txActive = true → s.txLen.toNat + s.opN.toNat ≤ s.par.cTx ∨ s.par.cTx < s.txLen.toNat) ∧
        t = { s with sL := s.activeLength, ph := .s2 }) := by
  unfold phaseS1 at h
  split at h
  · cases h
  · rename_i h0
    refine ⟨by omega, ?_⟩
    split at h
    · exact .inl (by injection h.symm)
    · rename_i h1
      split at h
      · exact .inl (by injection h.symm)
      · rename_i h2
        refine .inr ⟨by omega, fun ha => ?_, by injection h.symm⟩
        have : s.activeLength = s.txLen := by simp [State.activeLength, ha]
        rw [this] at h2
        simp only [ha, true_and] at h2
        omega

theorem phaseS2_next (h : phaseS2 s = .next t) :
    s.opBytes.length = s.opN.toNat ∧ t = { storeRun (txAddr s.par s.sL.toNat) s.opBytes s with ph := .s3 } := by
  obtain ⟨hl, -, h⟩ := copyPayload_next h
  exact ⟨hl, by injection h.symm⟩

theorem phaseS3_next (h : phaseS3 s = .next t) : t = { s with irqMask := true, csSaved := s.irqMask, ph := .s4 } := by
  injection h.symm

theorem phaseS4_next (h : phaseS4 s = .next t) : t = { s with txLen := len (s.sL.toNat + s.opN.toNat), ph := .s5 } := by
  injection h.symm

theorem phaseS5_next (h : phaseS5 s = .next t) :
    s.txActive = true ∧ t = respondSubmitted { s with irqMask := s.csSaved, ph := .idle } ∨
      s.txActive = false ∧ t = { s with irqMask := s.csSaved, ph := .s6 } := by
  unfold phaseS5 at h
  split at h
  · rename_i ha; exact .inl ⟨ha, by injection h.symm⟩
  · rename_i ha; exact .inr ⟨by simpa using ha, by injection h.symm⟩

theorem phaseS6_next (h : phaseS6 s = .next t) :
    s.opBytes.length = s.opN.toNat ∧ t = respondSubmitted
      { storeRun (txAddr s.par 0) s.opBytes s with txLen := s.opN, txSent := 0, txActive := true, ph := .idle } := by
  obtain ⟨hl, -, h⟩ := copyPayload_next h
  exact ⟨hl, by injection h.symm⟩

/-! ## The phases of DRAIN -/

theorem phaseD1_next (h : phaseD1 s = .next t) :
    s.rcurValid = true ∧ t = { s with ph := .d2 } ∨
      s.rcurValid = false ∧ s.rxStarted = true ∧ 0 < s.par.cRx ∧ t = { s with rcur := 0, rcurValid := true, ph := .d2 } ∨
      s.rcurValid = false ∧ s.rxStarted = true ∧ s.par.cRx = 0 ∧ t = { s with flt := .cursorInvalid, fltInfo := 0 } ∨
      s.rcurValid = false ∧ s.rxStarted = false ∧ t = s := by
  unfold phaseD1 at h
  split at h
  · rename_i hv; exact .inl ⟨hv, by injection h.symm⟩
  · rename_i hv
    have hv : s.rcurValid = false := by simpa using hv
    split at h
    · rename_i hs
      rcases withCursor_next h with ⟨hc, h⟩ | ⟨hc, h⟩
      · exact .inr (.inl ⟨hv, hs, hc, by injection h.symm⟩)
      · exact .inr (.inr (.inl ⟨hv, hs, by omega, h⟩))
    · rename_i hs
      exact .inr (.inr (.inr ⟨hv, by simpa using hs, by injection h.symm⟩))

theorem phaseD2_next (hs : 1 ≤ s.par.stride) (h : phaseD2 s = .next t) :
    s.rxWcur.toNat < s.par.cRx ∧ t = { s with snap := s.rxWcur, ph := .d3 } ∨
      s.par.cRx ≤ s.rxWcur.toNat ∧ t = { s with flt := .cursorInvalid, fltInfo := rxAddr s.par s.rxWcur.toNat } := by
  rcases withChannelCursor_next h with ⟨off, ho, ha, h⟩ | ⟨hn, h⟩
  · have := rxAddr_inj hs ha
    subst this
    exact .inl ⟨ho, by injection h.symm with h; simpa using h⟩
  · refine .inr ⟨?_, h⟩
    by_contra hlt
    have := rxOff_of_lt hs (show s.rxWcur.toNat < s.par.cRx by omega)
    rw [hn] at this
    cases this

theorem phaseD3_next (h : phaseD3 s = .next t) :
    s.rcur = s.snap ∧ t = respondDrain 0 { s with dcnt := 0, ph := .idle } ∨
      s.rcur.toNat < s.snap.toNat ∧ t = { s with dcnt := 0, dptr := s.rcur, dend := s.snap, ph := .d4 } ∨
      s.snap.toNat < s.rcur.toNat ∧ t = { s with dcnt := 0, dptr := s.rcur, dend := len s.par.cRx, ph := .d4 } := by
  unfold phaseD3 at h
  split at h
  · rename_i he; exact .inl ⟨he, by injection h.symm⟩
  · rename_i hne
    split at h
    · rename_i hlt; exact .inr (.inl ⟨hlt, by injection h.symm⟩)
    · rename_i hlt
      have : s.rcur.toNat ≠ s.snap.toNat := fun h' => hne (Len.ext h')
      exact .inr (.inr ⟨by omega, by injection h.symm⟩)

theorem phaseD4_next (h : phaseD4 s = .next t) :
    s.dptr.toNat < s.dend.toNat ∧ (∃ v, s.rxbuf s.dptr.toNat = some v ∧
        t = emitDrain v { s with dptr := len (s.dptr.toNat + 1), dcnt := len (s.dcnt.toNat + 1) }) ∨
      s.dptr.toNat < s.dend.toNat ∧ s.rxbuf s.dptr.toNat = none ∧
        t = { s with flt := .uninitRead, fltInfo := rxAddr s.par s.dptr.toNat } ∨
      s.dend.toNat ≤ s.dptr.toNat ∧ s.dend = s.snap ∧ s.snap.toNat < s.par.cRx ∧
        t = respondDrain s.dcnt { s with rcur := s.snap, ph := .idle } ∨
      s.dend.toNat ≤ s.dptr.toNat ∧ s.dend = s.snap ∧ s.par.cRx ≤ s.snap.toNat ∧
        t = { s with flt := .cursorInvalid, fltInfo := s.snap.toNat } ∨
      s.dend.toNat ≤ s.dptr.toNat ∧ s.dend ≠ s.snap ∧ 0 < s.par.cRx ∧ t = { s with rcur := 0, dptr := 0, dend := s.snap } ∨
      s.dend.toNat ≤ s.dptr.toNat ∧ s.dend ≠ s.snap ∧ s.par.cRx = 0 ∧
        t = { s with flt := .cursorInvalid, fltInfo := 0 } := by
  unfold phaseD4 at h
  split at h
  · rename_i hlt
    obtain ⟨-, ⟨v, hv, h⟩ | ⟨hv, h⟩⟩ := memRead_next h
    · exact .inl ⟨hlt, v, hv, by injection h.symm⟩
    · exact .inr (.inl ⟨hlt, hv, h⟩)
  · rename_i hge
    have hge : s.dend.toNat ≤ s.dptr.toNat := by omega
    split at h
    · rename_i he
      rcases withCursor_next h with ⟨hc, h⟩ | ⟨hc, h⟩
      · exact .inr (.inr (.inl ⟨hge, he, hc, by injection h.symm with h; simpa using h⟩))
      · exact .inr (.inr (.inr (.inl ⟨hge, he, hc, h⟩)))
    · rename_i hne
      rcases withCursor_next h with ⟨hc, h⟩ | ⟨hc, h⟩
      · exact .inr (.inr (.inr (.inr (.inl ⟨hge, hne, hc, by injection h.symm⟩))))
      · exact .inr (.inr (.inr (.inr (.inr ⟨hge, hne, by omega, h⟩))))

/-! ## The labels -/

/-- What SEQ's next state is a next state of: the rule of the phase (rule R184). -/
def seqPhase (s : State) : Result :=
  match s.ph with
  | .idle => .next s
  | .s1 => phaseS1 s
  | .s2 => phaseS2 s
  | .s3 => phaseS3 s
  | .s4 => phaseS4 s
  | .s5 => phaseS5 s
  | .s6 => phaseS6 s
  | .d1 => phaseD1 s
  | .d2 => phaseD2 s
  | .d3 => phaseD3 s
  | .d4 => phaseD4 s
  | .reserved7 | .reserved12 | .reserved13 | .reserved14 | .reserved15 => .refused .reservedPhase

theorem execSeq_eq (s : State) : execSeq s = unlessFaulted s (seqPhase s) := by
  unfold execSeq seqPhase; cases s.ph <;> rfl

theorem execSeq_next (h : execSeq s = .next t) : s.flt = .noFault ∧ seqPhase s = .next t := by
  rw [execSeq_eq] at h; exact unlessFaulted_next h

theorem execSeq_noFault (hf : s.flt = .noFault) : execSeq s = seqPhase s := by
  rw [execSeq_eq, unlessFaulted_noFault hf]

theorem canSend_iff (s : State) : s.canSend = true ↔
    s.txActive = true ∧ s.txSent.toNat < s.txLen.toNat ∧ ¬ (s.par.arbAtomic = true ∧ s.ph = .s5) := by
  simp [State.canSend, and_assoc, imp_iff_not_or]

theorem execTxsend_next (h : execTxsend s = .next t) :
    s.flt = .noFault ∧ (s.canSend = true ∧ (∃ v, s.txbuf s.txSent.toNat = some v ∧
        t = emitWireOut v { s with txSent := len (s.txSent.toNat + 1) }) ∨
      s.canSend = true ∧ s.txbuf s.txSent.toNat = none ∧
        t = { s with flt := .uninitRead, fltInfo := txAddr s.par s.txSent.toNat } ∨
      s.canSend = false ∧ t = s) := by
  obtain ⟨hf, ⟨he, h⟩ | h⟩ := stepWhen_next h
  · obtain ⟨-, ⟨v, hv, h⟩ | ⟨hv, h⟩⟩ := memRead_next h
    · exact ⟨hf, .inl ⟨he, v, hv, by injection h.symm⟩⟩
    · exact ⟨hf, .inr (.inl ⟨he, hv, h⟩)⟩
  · exact ⟨hf, .inr (.inr h)⟩

theorem execTxdone_next (h : execTxdone s = .next t) :
    s.flt = .noFault ∧ (s.txActive = true ∧ s.txSent = s.txLen ∧
        t = { s with txActive := false, txLen := 0, txSent := 0, irqPend := true } ∨
      ¬ (s.txActive = true ∧ s.txSent = s.txLen) ∧ t = s) := by
  obtain ⟨hf, ⟨he, h⟩ | ⟨he, h⟩⟩ := stepWhen_next h
  · simp only [State.canComplete, Bool.and_eq_true, beq_iff_eq] at he
    exact ⟨hf, .inl ⟨he.1, he.2, by injection h.symm⟩⟩
  · refine ⟨hf, .inr ⟨?_, h⟩⟩
    rintro ⟨h1, h2⟩
    simp [State.canComplete, h1, h2] at he

theorem execRxstart_next (h : execRxstart s = .next t) :
    s.flt = .noFault ∧ (s.cfg = true ∧ s.rxStarted = false ∧ t = { s with rxStarted := true } ∨
      ¬ (s.cfg = true ∧ s.rxStarted = false) ∧ t = s) := by
  obtain ⟨hf, ⟨he, h⟩ | ⟨he, h⟩⟩ := stepWhen_next h
  · simp only [Bool.and_eq_true, Bool.not_eq_true'] at he
    exact ⟨hf, .inl ⟨he.1, he.2, by injection h.symm⟩⟩
  · refine ⟨hf, .inr ⟨?_, h⟩⟩
    rintro ⟨h1, h2⟩
    simp [h1, h2] at he

theorem execRxbyte_next {b : Byte} (h : execRxbyte b s = .next t) :
    s.flt = .noFault ∧ (s.rxStarted = true ∧ isElement s.par (rxAddr s.par s.rxWcur.toNat) = true ∧
        t = emitWireIn b { storeByte (rxAddr s.par s.rxWcur.toNat) b s with
          rxWcur := len ((s.rxWcur.toNat + 1) % s.par.cRx) } ∨
      s.rxStarted = false ∧ t = s) := by
  obtain ⟨hf, ⟨he, h⟩ | h⟩ := stepWhen_next h
  · obtain ⟨ha, h⟩ := memWrite_next h
    exact ⟨hf, .inl ⟨he, ha, by injection h.symm⟩⟩
  · exact ⟨hf, .inr h⟩

theorem execIrqtake_next (h : execIrqtake s = .next t) :
    s.flt = .noFault ∧ (s.irqPend = true ∧ s.irqMask = false ∧ t = emitIrq { s with irqPend := false } ∨
      ¬ (s.irqPend = true ∧ s.irqMask = false) ∧ t = s) := by
  obtain ⟨hf, ⟨he, h⟩ | ⟨he, h⟩⟩ := stepWhen_next h
  · simp only [State.irqLine, Bool.and_eq_true, Bool.not_eq_true'] at he
    exact ⟨hf, .inl ⟨he.1, he.2, by injection h.symm⟩⟩
  · refine ⟨hf, .inr ⟨?_, h⟩⟩
    rintro ⟨h1, h2⟩
    simp [State.irqLine, h1, h2] at he

/-- Where a fault is recorded, no instruction answers a next state (rule R202). -/
theorem exec_next_noFault {i : Instr} (h : exec i s = .next t) : s.flt = .noFault := by
  cases i with
  | init => exact (execInit_next h).1
  | submit n ps => exact (execSubmit_next h).1
  | drain => exact (execDrain_next h).1
  | csenter => exact (execCsenter_next h).1
  | csexit m => exact (execCsexit_next h).1
  | rdreg r => exact (execRdreg_next h).1
  | rxbyte b => exact (execRxbyte_next h).1
  | rxstart => exact (execRxstart_next h).1
  | txsend => exact (execTxsend_next h).1
  | txdone => exact (execTxdone_next h).1
  | irqtake => exact (execIrqtake_next h).1
  | seq => exact (execSeq_next h).1

/-! ## Decoding and the step -/

theorem runDecoded_next {d : Except DecodeError Instr} {f : Instr → State → Result} (h : runDecoded d f s = .next t) :
    ∃ i, d = .ok i ∧ f i s = .next t := by
  cases d with
  | ok i => exact ⟨i, rfl, h⟩
  | error e => cases h

/-- A step that answers a next state: the turn passed (or none was left) and nothing else changed, or an instruction the decoder
accepted ran, from the state with its turn, and for a command its presentation, taken. -/
theorem step_next (h : step s = .next t) :
    paramsOk s.par = true ∧ s.flt = .noFault ∧
      (t = s ∧ s.sched = [] ∨ (t = takeTurn s ∧ s.sched.head? = some .req) ∨
        (∃ i, i.wellFormed = true ∧ agentOf i = .req ∧ s.sched.head? = some .req ∧ s.ph = .idle ∧
          exec i (takePresented (takeTurn s)) = .next t) ∨
        (∃ w i, i.wellFormed = true ∧ s.sched.head? = some (.label w) ∧ decodeLabel w = .ok i ∧
          exec i (takeTurn s) = .next t)) := by
  unfold step at h
  split at h
  · rename_i hp
    obtain ⟨hf, h⟩ := unlessFaulted_next h
    refine ⟨hp, hf, ?_⟩
    unfold takeStep at h
    split at h
    · rename_i hs; exact .inl ⟨by injection h.symm, hs⟩
    · rename_i turns hs
      unfold requesterTurn at h
      split at h
      · exact .inr (.inl ⟨by injection h.symm, by simp [hs]⟩)
      · rename_i c more hc
        split at h
        · rename_i hi
          obtain ⟨i, hd, h⟩ := runDecoded_next h
          unfold decodeCommand at hd
          split at hd
          · cases hd
          · rename_i hl
            have := decode_agent hd
            exact .inr (.inr (.inl ⟨i, (decode_fields hd).2.2.2.2.2, by simpa [hl] using this, by simp [hs], hi, h⟩))
        · exact .inr (.inl ⟨by injection h.symm, by simp [hs]⟩)
    · rename_i w turns hs
      obtain ⟨i, hd, h⟩ := runDecoded_next h
      refine .inr (.inr (.inr ⟨w, i, ?_, by simp [hs], hd, h⟩))
      exact (decode_fields (decodeLabel_ok hd).2).2.2.2.2.2
  · cases h

end Sys2Proof.Machine
end

