-- ==== Sys2Proof/Laws/PerInstr.lean ====
section
/-! SUPPORT. The family InRow: every instruction's word lies in the row of rule R92's table that its constructor stands for, and its top bit tells a command from a label. -/

namespace Sys2Proof.Laws.InRow

/-- The word of the instruction is selected by its row of the opcode map, carries the row's `opc`, and has `opc[3] = 1` exactly
when the instruction is a label (rule R92). -/
def Statement (i : Instr) : Prop :=
  (opcodeRow i).selects (encode i) = true ∧ opcOf (encode i) = opcode i ∧
    (isLabelWord (encode i) = true ↔ agentOf i ≠ .req)

/-- A mask taken field by field: `opc` with `rsv`, then `b`, then `n`. -/
theorem and_fields (x mo : BitVec 8) (b mb : Byte) (n mn : Len) :
    (x ++ b ++ n : BitVec (8 + 8 + 16)) &&& (mo ++ mb ++ mn) = (x &&& mo) ++ (b &&& mb) ++ (n &&& mn) := by
  rw [BitVec.and_append, BitVec.and_append]

/-- A word is in a row when each of its fields is, under the row's mask of that field. -/
theorem selects_mkWord (o : BitVec 4) (b : Byte) (n : Len) (r : OpcodeRow) (mo : BitVec 8) (mb : Byte) (mn : Len)
    (hm : r.mask = mo ++ mb ++ mn) (hv : ((o ++ 0#4 : BitVec 8) &&& mo) ++ (b &&& mb) ++ (n &&& mn) = r.matchBits) :
    r.selects (mkWord o b n) = true := by
  have h : mkWord o b n = (o ++ 0#4 : BitVec 8) ++ b ++ n := rfl
  have h' := and_fields (o ++ 0#4) mo b mb n mn
  simp only [OpcodeRow.selects, beq_iff_eq, hm, h]
  exact h'.trans hv

theorem init : Statement .init := by unfold Statement; decide
theorem submit (n : Len) (ps : List Byte) : Statement (.submit n ps) := by
  refine ⟨selects_mkWord _ _ n _ 0xFF 0xFF 0 rfl ?_, by simp [encode], ?_⟩
  · simp [operandB, opcode, opcodeRow]
  · simp [encode, opcode, agentOf]
theorem drain : Statement .drain := by unfold Statement; decide
theorem csenter : Statement .csenter := by unfold Statement; decide
theorem csexit (m : Bool) : Statement (.csexit m) := by unfold Statement; cases m <;> decide
theorem rdreg (r : StatusReg) : Statement (.rdreg r) := by unfold Statement; cases r <;> decide
theorem rxbyte (b : Byte) : Statement (.rxbyte b) := by
  refine ⟨selects_mkWord _ b _ _ 0xFF 0 0xFFFF rfl ?_, by simp [encode], ?_⟩
  · simp [opcode, operandN, opcodeRow]
  · simp [encode, opcode, agentOf]
theorem rxstart : Statement .rxstart := by unfold Statement; decide
theorem txsend : Statement .txsend := by unfold Statement; decide
theorem txdone : Statement .txdone := by unfold Statement; decide
theorem irqtake : Statement .irqtake := by unfold Statement; decide
theorem seq : Statement .seq := by unfold Statement; decide

end Sys2Proof.Laws.InRow
end

