-- ==== Sys2Proof/Tests/Slice0.lean ====
section
/-! SUPPORT. The model's own tests: the WellFormed smoke, the decoding of words written out from rule R92, single steps whose results the spec's vectors give (`95_test_vectors.md`), and a witness for every statement that has hypotheses. -/

namespace Sys2Proof.Tests

open Sys2Proof.Machine

/-! ## Small states -/

/-- The state of a next outcome. -/
def after : Result → Option State
  | .next t => some t
  | .fault _ => none
  | .refused _ => none

/-- The fault of an outcome. -/
def stopped : Result → Option Fault
  | .next _ => none
  | .fault r => some r
  | .refused _ => none

/-- The refusal of an outcome. -/
def declined : Result → Option Refusal
  | .next _ => none
  | .fault _ => none
  | .refused e => some e

/-- What one instruction makes of a state, seen through `f`. -/
def sees {α : Type} (i : Instr) (s : State) (f : State → α) : Option α := (after (exec i s)).map f

/-- A configured block, idle. -/
def configured : State := { State.reset with cfg := true }

/-- A transfer in progress: `bytes` committed, `sent` of them sent. -/
def sending (sent : Len) (bytes : List Byte) : State :=
  { configured with
    mem := Memory.writeRun [] 0x20000000 bytes
    txActive := true, txLen := len bytes.length, txSent := sent
    obs := { Streams.reset with wireOut := bytes.take sent.toNat, accepted := bytes } }

/-- SUBMIT of `payload` in progress at a phase, its length sampled at the end of the window. -/
def submitting (ph : Phase) (payload : List Byte) (s : State) : State :=
  { s with ph := ph, opN := len payload.length, opBytes := payload, sL := s.activeLength }

/-- The same with the payload copied behind the window. -/
def copied (ph : Phase) (payload : List Byte) (s : State) : State :=
  { submitting ph payload s with mem := s.mem.writeRun (txAddr s.par s.activeLength.toNat) payload }

/-- The commit window: the payload copied, the length extended, the mask set. -/
def committed (payload : List Byte) (s : State) : State :=
  { copied .s5 payload s with irqMask := true, txLen := len (s.activeLength.toNat + payload.length) }

/-- A started receive channel into which `bytes` have arrived, none drained. -/
def received (bytes : List Byte) : State :=
  { configured with
    mem := Memory.writeRun [] 0x20001000 bytes, rxStarted := true, rxWcur := len bytes.length
    obs := { Streams.reset with wireIn := bytes } }

/-- DRAIN in progress at a phase, with the cursor and the snapshot given. -/
def draining (ph : Phase) (rcur snap : Len) (s : State) : State :=
  { s with ph := ph, rcur := rcur, rcurValid := true, snap := snap }

/-- Vectors V24 row 21: eight bytes arrived, the first six drained, the write cursor wrapped to the origin. -/
def wrapped : State :=
  { received [0, 1, 2, 3, 4, 5, 6, 7] with
    rxWcur := 0, rcur := 6, rcurValid := true
    obs := { Streams.reset with
      wireIn := [0, 1, 2, 3, 4, 5, 6, 7]
      drainOut := [.byte 0, .byte 1, .byte 2, .byte 3, .byte 4, .byte 5, .close] } }

/-! ## WellFormed -/

theorem test_wellFormed_submit : Instr.wellFormed (.submit 2 [0x68, 0x69]) = true := by decide

theorem test_illFormed_submit_short : Instr.wellFormed (.submit 2 [0x68]) = false := by decide

theorem test_illFormed_submit_long : Instr.wellFormed (.submit 0 [0x68]) = false := by decide

/-! ## Decoding: vectors V40 to V59 -/

theorem test_decode_init : decode 0b0001_0000_00000000_0000000000000000 [] = .ok .init := by decide

theorem test_decode_submit : decode 0b0010_0000_00000000_0000000000000011 [0x41, 0x42, 0x43] = .ok (.submit 3 [0x41, 0x42, 0x43]) := by
  decide

theorem test_decode_submit_zero : decode 0x20000000 [] = .ok (.submit 0 []) := by decide

theorem test_decode_drain : decode 0b0011_0000_00000000_0000000000000000 [] = .ok .drain := by decide

theorem test_decode_csenter : decode 0b0100_0000_00000000_0000000000000000 [] = .ok .csenter := by decide

theorem test_decode_csexit :
    decode 0b0101_0000_00000000_0000000000000000 [] = .ok (.csexit false) ∧
      decode 0b0101_0000_00000000_0000000000000001 [] = .ok (.csexit true) := by decide

theorem test_decode_rdreg :
    decode 0b0110_0000_00000000_0000000000000000 [] = .ok (.rdreg .status) ∧ decode 0x60000001 [] = .ok (.rdreg .txlen) ∧
      decode 0x60000002 [] = .ok (.rdreg .rxwcur) ∧ decode 0x60000003 [] = .ok (.rdreg .rxrcur) ∧
      decode 0x60000004 [] = .ok (.rdreg .captx) ∧ decode 0x60000005 [] = .ok (.rdreg .caprx) := by decide

theorem test_decode_rxbyte : decode 0b1000_0000_11111111_0000000000000000 [] = .ok (.rxbyte 0xFF) := by decide

theorem test_decode_rxstart : decode 0b1001_0000_00000000_0000000000000000 [] = .ok .rxstart := by decide

theorem test_decode_txsend : decode 0b1010_0000_00000000_0000000000000000 [] = .ok .txsend := by decide

theorem test_decode_txdone : decode 0b1011_0000_00000000_0000000000000000 [] = .ok .txdone := by decide

theorem test_decode_irqtake : decode 0b1100_0000_00000000_0000000000000000 [] = .ok .irqtake := by decide

theorem test_decode_seq : decode 0b1111_0000_00000000_0000000000000000 [] = .ok .seq := by decide

/-- V41, V45, V46, V50, V53, V56, V59: a must-be-zero bit that is not. -/
theorem test_decode_nonzero :
    decode 0x10000001 [] = .error .nonzeroN ∧ decode 0x20010000 [] = .error .nonzeroB ∧
      decode 0x21000003 [1, 2, 3] = .error .nonzeroRsv ∧ decode 0x50000002 [] = .error .nonzeroN ∧
      decode 0x60000008 [] = .error .nonzeroN ∧ decode 0x80FF0001 [] = .error .nonzeroN ∧
      decode 0xF0000001 [] = .error .nonzeroN := by decide

/-- V52, V54, V58: the reserved registers, the reserved opcodes, a label on the command port. -/
theorem test_decode_reserved :
    decode 0x60000006 [] = .error .reservedRegister ∧ decode 0x60000007 [] = .error .reservedRegister ∧
      decode 0x00000000 [] = .error .reservedOpcode ∧ decode 0x70000000 [] = .error .reservedOpcode ∧
      decode 0xD0000000 [] = .error .reservedOpcode ∧ decode 0xE0000000 [] = .error .reservedOpcode ∧
      decodeCommand 0xF0000000 [] = .error .labelOnCommandPort := by decide

/-- Rule R97: an illegal word in a label's turn is rejected as what it is, whatever its bit 31; a legal command word there is the
model's own rejection (log entry 6). -/
theorem test_decode_label :
    decodeLabel 0x00000000 = .error .reservedOpcode ∧ decodeLabel 0x70000000 = .error .reservedOpcode ∧
      decodeLabel 0xD0000000 = .error .reservedOpcode ∧ decodeLabel 0x11000000 = .error .nonzeroRsv ∧
      decodeLabel 0x60000006 = .error .reservedRegister ∧ decodeLabel 0x20000002 = .error .commandAsLabel ∧
      decodeLabel 0x30000000 = .error .commandAsLabel := by decide

/-- Rule R94: the payload is exactly `n` bytes (the model's own rejection, log entry 6). -/
theorem test_decode_payload_length : decode 0x20000003 [0x41, 0x42] = .error .payloadLength := by decide

theorem test_encode_submit : encode (.submit 3 [0x41, 0x42, 0x43]) = 0x20000003 := by decide

theorem test_encode_rxbyte : encode (.rxbyte 0x37) = 0x80370000 := by decide

/-- The codes of the phases and of the faults (rules R33, R202). -/
theorem test_codes : Phase.s6.code = 6 ∧ Phase.d1.code = 8 ∧ Phase.d4.code = 11 ∧ Flt.uninitRead.code = 3 := by decide

/-! ## The functions of the spec's vectors V20 and V21 -/

theorem test_advance : advance Config.vectorParams 7 1 = 0 ∧ advance Config.vectorParams 6 4 = 2 := by decide

theorem test_unread :
    unread Config.vectorParams 2 6 = 4 ∧ unread Config.vectorParams 5 5 = 0 ∧ unread Config.vectorParams 0 1 = 7 := by decide

/-- Vectors V21 run with `STRIDE = 4`. -/
def strided : Params := { Config.vectorParams with stride := 4 }

theorem test_rxAddr : rxAddr strided 4 = 0x20001010 ∧ rxAddr strided 7 = 0x2000101C := by decide

theorem test_rxOff :
    rxOff strided 0x20001010 = some 4 ∧ rxOff strided 0x20001012 = none ∧ rxOff strided 0x20001020 = none ∧
      rxOff strided 0x20000FFC = none := by decide

/-! ## Single steps -/

/-- V30a. -/
theorem test_init : sees .init State.reset (fun t => (t.cfg, t.ph, t.obs.rspLog)) = some (true, .idle, [⟨0, 0⟩]) := by decide

/-- V30b. -/
theorem test_init_twice : declined (exec .init configured) = some .doubleInit := by decide

/-- Rule R120's example. -/
theorem test_submit : sees (.submit 3 [0x41, 0x42, 0x43]) configured (fun t => (t.ph, t.opN, t.opBytes)) =
    some (.s1, 3, [0x41, 0x42, 0x43]) := by decide

/-- V30c: the fault is recorded, and afterwards no agent has a step. -/
theorem test_submit_before_init : sees (.submit 1 [0x41]) State.reset (fun t => (t.flt, stopped (exec .irqtake t))) =
    some (.notConfigured, some (.notConfigured 0x2)) := by decide

/-- Rule R154's example. -/
theorem test_drain : sees .drain configured (fun t => (t.ph, t.obs.rspLog)) = some (.d1, []) := by decide

/-- V30d. -/
theorem test_drain_before_init : sees .drain State.reset (fun t => (t.flt, t.ph)) = some (.notConfigured, .idle) := by decide

/-- V31: the nested enter answers 1. -/
theorem test_csenter_nested : sees .csenter { configured with irqMask := true } (fun t => (t.irqMask, t.obs.rspLog)) =
    some (true, [⟨0, 1⟩]) := by decide

/-- V31: the inner exit leaves the mask set, the outer one clears it. -/
theorem test_csexit : sees (.csexit true) { configured with irqMask := true } (fun t => t.irqMask) = some true ∧
    sees (.csexit false) { configured with irqMask := true } (fun t => t.irqMask) = some false := by decide

/-- V33b: STATUS with TXACT, IM, IP and CFG. -/
theorem test_rdreg_status :
    sees (.rdreg .status) { sending 1 [0x21, 0x22] with irqMask := true, irqPend := true } (fun t => t.obs.rspLog) =
      some [⟨0, 0x39⟩] := by decide

/-- V33d: RXWCUR and RXRCUR as addresses. -/
theorem test_rdreg_cursors :
    sees (.rdreg .rxwcur) (draining .idle 2 2 (received [1, 2])) (fun t => t.obs.rspLog) = some [⟨0, 0x20001002⟩] ∧
      sees (.rdreg .rxrcur) (draining .idle 2 2 (received [1, 2])) (fun t => t.obs.rspLog) = some [⟨0, 0x20001002⟩] := by decide

/-- Rule R160's example: the wrap. -/
theorem test_rxbyte_wrap :
    sees (.rxbyte 0x37) { received [] with rxWcur := 7 } (fun t => (t.rxbuf 7, t.rxWcur)) = some (some 0x37, 0) := by decide

/-- V8 row 14: a full buffer is overwritten, without a fault. -/
theorem test_rxbyte_overwrites : sees (.rxbyte 0x10) wrapped (fun t => (t.rxbuf 0, t.rxWcur, t.flt)) =
    some (some 0x10, 1, .noFault) := by decide

/-- Rule R159's example. -/
theorem test_rxstart : sees .rxstart configured (fun t => t.rxStarted) = some true := by decide

/-- Before INIT the channel does not start (rule R159). -/
theorem test_rxstart_before_init : sees .rxstart State.reset (fun t => t) = some State.reset := by decide

/-- Rule R127's example. -/
theorem test_txsend : sees .txsend (sending 1 [0x41, 0x42, 0x43]) (fun t => (t.txSent, t.obs.wireOut)) =
    some (2, [0x41, 0x42]) := by decide

/-- V16d: at S5 with ARB_ATOMIC the engine is held. -/
theorem test_txsend_held :
    sees .txsend { sending 1 [0x41, 0x42, 0x43] with ph := .s5, par := { Config.vectorParams with arbAtomic := true } }
      (fun t => t.txSent) = some 1 := by decide

/-- V16e: the mask does not hold the engine; V16f: the signal stays pending. -/
theorem test_txdone :
    sees .txdone { sending 3 [0x41, 0x42, 0x43] with irqMask := true, irqPend := true }
      (fun t => (t.txActive, t.txLen, t.txSent, t.irqPend)) = some (false, 0, 0, true) := by decide

/-- V16b: not before the engine has reached the length. -/
theorem test_txdone_early : sees .txdone (sending 1 [0x41, 0x42, 0x43]) (fun t => t) =
    some (sending 1 [0x41, 0x42, 0x43]) := by decide

/-- V35a. -/
theorem test_irqtake : sees .irqtake { configured with irqPend := true } (fun t => (t.irqPend, t.obs.irqLog)) =
    some (false, [.taken]) := by decide

/-- V35b. -/
theorem test_irqtake_masked : sees .irqtake { configured with irqPend := true, irqMask := true } (fun t => t.irqPend) =
    some true := by decide

/-- P3 row 18: the restart puts the byte at the origin and starts a transfer of length 1. -/
theorem test_seq_restart :
    sees .seq (submitting .s6 [0x58] { configured with mem := [(0x20000000, 0x68), (0x20000001, 0x69)] })
      (fun t => (t.txbuf 0, t.txLen, t.txSent, t.txActive, t.ph)) = some (some 0x58, 1, 0, true, .idle) := by decide

/-- V24 row 28: closing the tail run. -/
theorem test_seq_tail : sees .seq { draining .d4 6 0 wrapped with dptr := 8, dend := 8, dcnt := 2 }
    (fun t => (t.rcur, t.dptr, t.dend, t.ph)) = some (0, 0, 0, .d4) := by decide

/-- V58 through the port: a label is no command. -/
theorem test_step_label_on_port : declined (step (offerCommand 0xF0000000 [] configured)) =
    some (.illegalCommand .labelOnCommandPort) := by decide

/-- V40 through the port. -/
theorem test_step_init : (after (step (State.reset.withFetchWord 32 0x10000000))).map (fun t => (t.cfg, t.port, t.sched)) =
    some (true, [], []) := by decide

/-! ## Witnesses: states that meet the invariants -/

theorem inv_reset : Inv State.reset := by
  refine ⟨by decide, by decide, by decide, by decide, by decide, ?_, ?_, ?_⟩ <;> constructor <;> decide

theorem inv_configured : Inv configured := by
  refine ⟨by decide, by decide, by decide, by decide, by decide, ?_, ?_, ?_⟩ <;> constructor <;> decide

theorem inv_sending : Inv (sending 1 [0x41, 0x42, 0x43]) := by
  refine ⟨by decide, by decide, by decide, by decide, by decide, ?_, ?_, ?_⟩ <;> constructor <;> decide

theorem inv_s1 : Inv (submitting .s1 [0x58] (sending 1 [0x41, 0x42, 0x43])) := by
  refine ⟨by decide, by decide, by decide, by decide, by decide, ?_, ?_, ?_⟩ <;> constructor <;> decide

theorem inv_s2 : Inv (submitting .s2 [0x58] (sending 1 [0x41, 0x42, 0x43])) := by
  refine ⟨by decide, by decide, by decide, by decide, by decide, ?_, ?_, ?_⟩ <;> constructor <;> decide

theorem inv_s3 : Inv (copied .s3 [0x58] (sending 1 [0x41, 0x42, 0x43])) := by
  refine ⟨by decide, by decide, by decide, by decide, by decide, ?_, ?_, ?_⟩ <;> constructor <;> decide

theorem inv_s4 : Inv { copied .s4 [0x58] (sending 1 [0x41, 0x42, 0x43]) with irqMask := true } := by
  refine ⟨by decide, by decide, by decide, by decide, by decide, ?_, ?_, ?_⟩ <;> constructor <;> decide

theorem inv_s5 : Inv (committed [0x58] (sending 3 [0x41, 0x42, 0x43])) := by
  refine ⟨by decide, by decide, by decide, by decide, by decide, ?_, ?_, ?_⟩ <;> constructor <;> decide

theorem inv_s6 : Inv (submitting .s6 [0x58] configured) := by
  refine ⟨by decide, by decide, by decide, by decide, by decide, ?_, ?_, ?_⟩ <;> constructor <;> decide

theorem inv_received : Inv (received [1, 2]) := by
  refine ⟨by decide, by decide, by decide, by decide, by decide, ?_, ?_, ?_⟩ <;> constructor <;> decide

theorem inv_wrapped : Inv wrapped := by
  refine ⟨by decide, by decide, by decide, by decide, by decide, ?_, ?_, ?_⟩ <;> constructor <;> decide

theorem inv_d1 : Inv { received [1, 2] with ph := .d1 } := by
  refine ⟨by decide, by decide, by decide, by decide, by decide, ?_, ?_, ?_⟩ <;> constructor <;> decide

theorem inv_d2 : Inv (draining .d2 6 0 wrapped) := by
  refine ⟨by decide, by decide, by decide, by decide, by decide, ?_, ?_, ?_⟩ <;> constructor <;> decide

theorem inv_d3 : Inv (draining .d3 0 0 (received [])) := by
  refine ⟨by decide, by decide, by decide, by decide, by decide, ?_, ?_, ?_⟩ <;> constructor <;> decide

theorem inv_d4 : Inv { draining .d4 6 0 wrapped with dptr := 6, dend := 8 } := by
  refine ⟨by decide, by decide, by decide, by decide, by decide, ?_, ?_, ?_⟩ <;> constructor <;> decide

/-- V24 before row 29: the head run, empty, about to be closed. -/
def closing : State :=
  { draining .d4 0 0 wrapped with
    dptr := 0, dend := 0, dcnt := 2
    obs := { wrapped.obs with drainOut := wrapped.obs.drainOut ++ [.byte 6, .byte 7] } }

theorem inv_closing : Inv closing := by
  refine ⟨by decide, by decide, by decide, by decide, by decide, ?_, ?_, ?_⟩ <;> constructor <;> decide

theorem txAccount_sending : TxAccount (sending 1 [0x41, 0x42, 0x43]) := by constructor <;> decide

theorem txAccount_s5 : TxAccount (committed [0x58] (sending 3 [0x41, 0x42, 0x43])) := by constructor <;> decide

theorem rxAccount_received : RxAccount (received [1, 2]) := by constructor <;> decide

theorem rxAccount_d3 : RxAccount (draining .d3 0 0 (received [])) := by constructor <;> decide

theorem rxAccount_d4 : RxAccount { draining .d4 6 0 wrapped with dptr := 6, dend := 8 } := by constructor <;> decide

theorem rxAccount_closing : RxAccount closing := by constructor <;> decide

/-! ## Witnesses: for every statement with hypotheses, a state and operands that meet them together, clause by clause -/

theorem witness_DecodeOfEncodeReturnsTheInstruction :
    Instr.wellFormed (.submit 0 []) = true ∧ Instr.wellFormed (.submit 2 [0xFF, 0]) = true := by decide

theorem witness_DecodedWordIsTheEncoding : decode 0x20000002 [0xFF, 0] = .ok (.submit 2 [0xFF, 0]) := by decide

theorem witness_OpcodeMapSelectsTheWords :
    decode 0x60000005 [] = .ok (.rdreg .caprx) ∧
      ((0x60000005 : Word) &&& (opcodeRow (.rdreg .status)).mask = (opcodeRow (.rdreg .status)).matchBits ∧
        (opcodeRow (.rdreg .status)).mnemonic = "RDREG" ∧ (nOf 0x60000005).toNat < 6) ∧
      (0x50000001 : Word) &&& (opcodeRow (.csexit false)).mask = (opcodeRow (.csexit false)).matchBits ∧
      (0x50000001 : Word) &&& (opcodeRow (.csexit true)).mask = (opcodeRow (.csexit true)).matchBits := by decide

theorem witness_IllegalWordsAreRefused :
    (let s := offerCommand 0x60000006 [] configured;
      paramsOk s.par = true ∧ s.flt = .noFault ∧ s.ph = .idle ∧ s.port = [⟨0x60000006, []⟩] ∧ s.sched = [.req] ∧
        opcOf 0x60000006 = 0x6 ∧ 6 ≤ (nOf 0x60000006).toNat) ∧
    (let s := offerCommand 0xF0000000 [] configured;
      paramsOk s.par = true ∧ s.flt = .noFault ∧ s.ph = .idle ∧ s.port = [⟨0xF0000000, []⟩] ∧ s.sched = [.req] ∧
        isLabelWord 0xF0000000 = true) ∧
    (let s := offerLabel 0xD0000000 configured;
      paramsOk s.par = true ∧ s.flt = .noFault ∧ s.sched = [.label 0xD0000000] ∧ opcOf 0xD0000000 = 0xD) ∧
    (let s := offerLabel 0x70000000 configured;
      paramsOk s.par = true ∧ s.flt = .noFault ∧ s.sched = [.label 0x70000000] ∧ opcOf 0x70000000 = 0x7) := by decide

theorem witness_StepRunsTheDecodedInstruction :
    (let s := offerCommand 0x20000001 [0x41] configured;
      paramsOk s.par = true ∧ s.flt = .noFault ∧ s.port = [⟨0x20000001, [0x41]⟩] ∧ s.sched = [.req] ∧ s.ph = .idle ∧
        decodeCommand 0x20000001 [0x41] = .ok (.submit 1 [0x41])) ∧
    (let s := offerLabel 0x80FF0000 (received [1]);
      paramsOk s.par = true ∧ s.flt = .noFault ∧ s.sched = [.label 0x80FF0000] ∧
        decodeLabel 0x80FF0000 = .ok (.rxbyte 0xFF)) := by decide

theorem witness_StepHoldsWhereNoAgentIsEnabled :
    (let s := offerCommand 0x30000000 [] (submitting .s1 [0x58] configured);
      paramsOk s.par = true ∧ s.flt = .noFault ∧ s.sched = [.req] ∧ s.ph ≠ .idle) ∧
    (let s := { configured with sched := [.req] };
      paramsOk s.par = true ∧ s.flt = .noFault ∧ s.sched = [.req] ∧ s.port = []) ∧
    (paramsOk configured.par = true ∧ configured.flt = .noFault ∧ configured.sched = []) ∧
    (let s := offerLabel 0xF0000000 (sending 1 [0x41, 0x42, 0x43]);
      paramsOk s.par = true ∧ s.flt = .noFault ∧ s.sched = [.label 0xF0000000] ∧ decodeLabel 0xF0000000 = .ok .seq ∧
        s.ph = .idle) := by decide

/-- The other instructions whose agent is not enabled, each at a condition of its rule. -/
theorem witness_StepHoldsWhereNoAgentIsEnabled_instructions :
    (agentOf .drain = .req ∧ (submitting .s1 [0x58] configured).ph ≠ .idle) ∧
    (let s := { configured with ph := .d1 };
      s.flt = .noFault ∧ s.ph = .d1 ∧ s.rcurValid = false ∧ s.rxStarted = false) ∧
    (let s := sending 3 [0x41, 0x42, 0x43];
      s.flt = .noFault ∧ s.txActive = true ∧ s.txLen.toNat ≤ s.txSent.toNat) ∧
    (let s := { committed [0x58] (sending 1 [0x41]) with par := { Config.vectorParams with arbAtomic := true } };
      s.flt = .noFault ∧ s.par.arbAtomic = true ∧ s.ph = .s5) ∧
    (let s := sending 2 [0x41, 0x42, 0x43];
      s.flt = .noFault ∧ s.txActive = true ∧ s.txSent ≠ s.txLen) ∧
    (configured.flt = .noFault ∧ configured.txActive = false ∧ configured.irqPend = false ∧ configured.rxStarted = false) ∧
    (State.reset.flt = .noFault ∧ State.reset.cfg = false) ∧ (received []).rxStarted = true ∧
    (let s := { configured with irqPend := true, irqMask := true };
      s.flt = .noFault ∧ s.irqMask = true) := by decide

/-- Boundary configurations: a buffer of one element, and two buffers that overlap by one address. -/
theorem witness_BadConfigurationIsRefused :
    ¬ (2 ≤ { Config.vectorParams with cRx := 1 }.cRx) ∧
      (let p := { Config.vectorParams with rxBase := 0x20000007 };
        ¬ (p.txBase.toNat + p.cTx ≤ p.rxBase.toNat ∨ p.rxBase.toNat + p.stride * p.cRx ≤ p.txBase.toNat)) := by decide

theorem witness_BadConfigurationIsRefused_next : ∃ t, step configured = .next t := ⟨_, rfl⟩

theorem witness_PlacedTableWordRuns :
    (paramsOk State.reset.par = true ∧ State.reset.flt = .noFault ∧
      decodeTableWord 32 0x20000002 = some (.submit 2 [0, 0]) ∧ State.reset.ph = .idle) ∧
    (let s := submitting .s1 [0x58] configured;
      paramsOk s.par = true ∧ s.flt = .noFault ∧ decodeTableWord 32 0xF0000000 = some .seq ∧ agentOf .seq ≠ .req ∧
        s.ph ≠ .idle) := by decide

theorem witness_InitConfiguresBothChannels :
    (State.reset.flt = .noFault ∧ State.reset.ph = .idle ∧ State.reset.cfg = false) ∧
      (configured.flt = .noFault ∧ configured.ph = .idle ∧ configured.cfg = true) := by decide

theorem witness_CsenterAnswersThePriorMask :
    (State.reset.flt = .noFault ∧ State.reset.ph = .idle) ∧
      (submitting .s1 [0x58] configured).flt = .noFault ∧ (submitting .s1 [0x58] configured).ph ≠ .idle := by decide

theorem witness_CsexitRestoresTheMask : State.reset.flt = .noFault ∧ State.reset.ph = .idle := by decide

theorem witness_CriticalSectionsNest :
    (configured.flt = .noFault ∧ configured.ph = .idle ∧ configured.irqMask = false) ∧
      (let s := { configured with irqMask := true };
        s.flt = .noFault ∧ s.ph = .idle ∧ s.irqMask = true) := by decide

theorem witness_RdregAnswersTheRegister :
    (State.reset.flt = .noFault ∧ State.reset.ph = .idle ∧ State.reset.rcurValid = false) ∧
      (wrapped.flt = .noFault ∧ wrapped.ph = .idle ∧ wrapped.rcurValid = true) := by decide

theorem witness_CommandsHoldWhileOneIsInProgress :
    agentOf (.csexit true) = .req ∧ (submitting .s1 [0x58] configured).flt = .noFault ∧
      (submitting .s1 [0x58] configured).ph ≠ .idle := by decide

theorem witness_SubmitIsLatched :
    (configured.flt = .noFault ∧ configured.ph = .idle ∧ configured.cfg = true) ∧
      (State.reset.flt = .noFault ∧ State.reset.ph = .idle ∧ State.reset.cfg = false) := by decide

/-- The corners of vectors V10a to V10g, with `C_tx = 8`. -/
theorem witness_PhaseS1ChecksCapacityAndSamples :
    (let s := submitting .s1 [] configured;
      s.flt = .noFault ∧ s.ph = .s1 ∧ s.opN.toNat = 0) ∧
    (let s := submitting .s1 [1, 2, 3, 4, 5, 6, 7, 8, 9] configured;
      s.flt = .noFault ∧ s.ph = .s1 ∧ s.par.cTx < s.opN.toNat) ∧
    (let s := submitting .s1 [6, 7, 8, 9] (sending 0 [1, 2, 3, 4, 5]);
      s.flt = .noFault ∧ s.ph = .s1 ∧ 0 < s.opN.toNat ∧ s.txActive = true ∧ s.par.cTx - s.txLen.toNat < s.opN.toNat) ∧
    (let s := submitting .s1 [6, 7, 8] (sending 0 [1, 2, 3, 4, 5]);
      s.flt = .noFault ∧ s.ph = .s1 ∧ 0 < s.opN.toNat ∧ s.opN.toNat ≤ s.par.cTx ∧ s.txActive = true ∧
        s.opN.toNat ≤ s.par.cTx - s.txLen.toNat) ∧
    (let s := submitting .s1 [1, 2, 3, 4, 5, 6, 7, 8] configured;
      s.flt = .noFault ∧ s.ph = .s1 ∧ 0 < s.opN.toNat ∧ s.opN.toNat ≤ s.par.cTx ∧ s.txActive = false) := by decide

/-- The last bytes of the buffer: `sL + n = C_tx`. -/
theorem witness_PhaseS2CopiesBehindTheWindow :
    let s := submitting .s2 [6, 7, 8] (sending 0 [1, 2, 3, 4, 5]);
    s.flt = .noFault ∧ s.ph = .s2 ∧ s.opBytes.length = s.opN.toNat ∧ s.sL.toNat + s.opN.toNat ≤ s.par.cTx := by decide

theorem witness_CommitPhases :
    (let s := copied .s3 [0x58] configured;
      s.flt = .noFault ∧ s.ph = .s3) ∧
    (let s := copied .s4 [0x58] configured;
      s.flt = .noFault ∧ s.ph = .s4 ∧ s.sL.toNat + s.opN.toNat < 2 ^ 16) ∧
    (let s := committed [0x58] (sending 1 [0x41]);
      s.flt = .noFault ∧ s.ph = .s5 ∧ s.txActive = true) ∧
    (let s := committed [0x58] configured;
      s.flt = .noFault ∧ s.ph = .s5 ∧ s.txActive = false) := by decide

theorem witness_PhaseS6RestartsFromTheOrigin :
    let s := submitting .s6 [1, 2, 3, 4, 5, 6, 7, 8] configured;
    s.flt = .noFault ∧ s.ph = .s6 ∧ s.opBytes.length = s.opN.toNat ∧ s.opN.toNat ≤ s.par.cTx := by decide

theorem witness_ActiveLengthIsTheLengthRegister :
    (sending 1 [0x41, 0x42, 0x43]).txActive = true ∧ configured.txActive = false ∧
      Inv (sending 1 [0x41, 0x42, 0x43]) ∧ (sending 1 [0x41, 0x42, 0x43]).ph ≠ .s5 ∧
      (sending 1 [0x41, 0x42, 0x43]).ph ≠ .s6 := ⟨by decide, by decide, inv_sending, by decide, by decide⟩

theorem witness_FailedSubmitLeavesTheStateUnchanged :
    (configured.flt = .noFault ∧ configured.ph = .idle ∧ configured.cfg = true ∧ 0 < (9 : Len).toNat ∧
      configured.par.cTx < (9 : Len).toNat) ∧
    (let s := sending 0 [1, 2, 3, 4, 5];
      s.flt = .noFault ∧ s.ph = .idle ∧ s.cfg = true ∧ 0 < (4 : Len).toNat ∧ s.txActive = true ∧
        s.par.cTx - s.txLen.toNat < (4 : Len).toNat) := by decide

theorem witness_SubmitRunsAsSubmitAtomic :
    Inv configured ∧ configured.flt = .noFault ∧ configured.ph = .idle ∧ configured.cfg = true ∧
      (([] : List Byte).length = (0 : Len).toNat ∧ ([] : List Byte).length = 0) ∧
      (([0x58] : List Byte).length = (1 : Len).toNat ∧ 0 < ([0x58] : List Byte).length) :=
  ⟨inv_configured, by decide, by decide, by decide, by decide, by decide⟩

/-- The SUBMIT phases in their order; the third clause's other agent is the engine. -/
theorem witness_SubmitNeverBlocks :
    (Inv (submitting .s1 [0x58] (sending 1 [0x41, 0x42, 0x43])) ∧ 0 < (submitting .s1 [0x58] (sending 1 [0x41, 0x42, 0x43])).opN.toNat) ∧
      Inv (submitting .s2 [0x58] (sending 1 [0x41, 0x42, 0x43])) ∧ Inv (copied .s3 [0x58] (sending 1 [0x41, 0x42, 0x43])) ∧
      Inv { copied .s4 [0x58] (sending 1 [0x41, 0x42, 0x43]) with irqMask := true } ∧
      Inv (committed [0x58] (sending 3 [0x41, 0x42, 0x43])) ∧ Inv (submitting .s6 [0x58] configured) ∧
      agentOf .txsend ≠ .seq ∧ ∃ t, exec .txsend (committed [0x58] (sending 3 [0x41, 0x42, 0x43])) = .next t :=
  ⟨⟨inv_s1, by decide⟩, inv_s2, inv_s3, inv_s4, inv_s5, inv_s6, by decide, _, rfl⟩

theorem witness_TxsendSendsTheNextByte :
    (let s := sending 2 [0x41, 0x42, 0x43];
      s.flt = .noFault ∧ s.txLen.toNat ≤ s.par.cTx ∧ s.txActive = true ∧ s.txSent.toNat < s.txLen.toNat ∧
        ¬ (s.par.arbAtomic = true ∧ s.ph = .s5) ∧ s.mem.read (txAddr s.par s.txSent.toNat) = some 0x43) ∧
    (let s := { sending 2 [0x41, 0x42, 0x43] with mem := [] };
      s.flt = .noFault ∧ s.txLen.toNat ≤ s.par.cTx ∧ s.txActive = true ∧ s.txSent.toNat < s.txLen.toNat ∧
        ¬ (s.par.arbAtomic = true ∧ s.ph = .s5) ∧ s.mem.read (txAddr s.par s.txSent.toNat) = none) ∧
    (configured.flt = .noFault ∧ configured.txLen.toNat ≤ configured.par.cTx ∧ configured.txActive = false) ∧
    (let s := sending 3 [0x41, 0x42, 0x43];
      s.flt = .noFault ∧ s.txLen.toNat ≤ s.par.cTx ∧ s.txLen.toNat ≤ s.txSent.toNat) ∧
    (let s := { committed [0x58] (sending 1 [0x41]) with par := { Config.vectorParams with arbAtomic := true } };
      s.flt = .noFault ∧ s.txLen.toNat ≤ s.par.cTx ∧ s.par.arbAtomic = true ∧ s.ph = .s5) := by decide

theorem witness_TxdoneCompletesTheTransfer :
    (let s := sending 3 [0x41, 0x42, 0x43];
      s.flt = .noFault ∧ s.txActive = true ∧ s.txSent = s.txLen) ∧
    (configured.flt = .noFault ∧ configured.txActive = false) ∧
    (let s := sending 2 [0x41, 0x42, 0x43];
      s.flt = .noFault ∧ s.txSent ≠ s.txLen) := by decide

/-- Program P4: the one appended byte is the next to be sent, at S5. -/
theorem witness_CommitWindowAdmitsADuplicate :
    let s := committed [0x58] (sending 3 [0x41, 0x42, 0x43]);
    Inv s ∧ s.flt = .noFault ∧ s.ph = .s5 ∧ s.txActive = true ∧ s.par.arbAtomic = false ∧ s.opBytes = [0x58] ∧
      s.txSent = s.sL ∧ s.txbuf s.sL.toNat = some 0x58 :=
  ⟨inv_s5, by decide, by decide, by decide, by decide, by decide, by decide, by decide⟩

/-- At S5 with a SEQ turn next: no TXSEND in the window, and the step is taken. -/
theorem witness_EveryStepKeepsExactlyOnce :
    let s := offerLabel 0xF0000000 (committed [0x58] (sending 3 [0x41, 0x42, 0x43]));
    Inv s ∧ TxAccount s ∧ s.sendsInCommitWindow = false ∧ ∃ t, step s = .next t := by
  refine ⟨⟨by decide, by decide, by decide, by decide, by decide, ?_, ?_, ?_⟩, ?_, by decide, _, rfl⟩ <;>
    constructor <;> decide

theorem witness_AccountedWireIsTheAcceptedPayloads :
    TxAccount (sending 1 [0x41, 0x42, 0x43]) ∧ TxAccount (committed [0x58] (sending 3 [0x41, 0x42, 0x43])) ∧
      (TxAccount configured ∧ configured.txActive = false ∧ configured.ph ≠ .s5) ∧
      (let s := { sending 1 [0x41, 0x42, 0x43] with par := { Config.vectorParams with arbAtomic := true } };
        TxAccount s ∧ s.par.arbAtomic = true) := by
  refine ⟨txAccount_sending, txAccount_s5, ⟨?_, by decide, by decide⟩, ?_, by decide⟩ <;> constructor <;> decide

theorem witness_DrainIsAccepted :
    (configured.flt = .noFault ∧ configured.ph = .idle ∧ configured.cfg = true) ∧
      (State.reset.flt = .noFault ∧ State.reset.ph = .idle ∧ State.reset.cfg = false) := by decide

theorem witness_PhaseD1InitializesTheCursor :
    (let s := draining .d1 6 0 wrapped;
      paramsOk s.par = true ∧ s.flt = .noFault ∧ s.ph = .d1 ∧ s.rcurValid = true) ∧
    (let s := { received [1, 2] with ph := .d1 };
      paramsOk s.par = true ∧ s.flt = .noFault ∧ s.ph = .d1 ∧ s.rcurValid = false ∧ s.rxStarted = true) ∧
    (let s := { configured with ph := .d1 };
      paramsOk s.par = true ∧ s.flt = .noFault ∧ s.ph = .d1 ∧ s.rcurValid = false ∧ s.rxStarted = false) := by decide

/-- The last offset, and the first one past it. -/
theorem witness_PhaseD2TakesTheSnapshot :
    (let s := { draining .d2 0 0 (received [1]) with rxWcur := 7 };
      paramsOk s.par = true ∧ s.flt = .noFault ∧ s.ph = .d2 ∧ s.rxWcur.toNat < s.par.cRx) ∧
    (let s := { draining .d2 0 0 (received [1]) with rxWcur := 8 };
      paramsOk s.par = true ∧ s.flt = .noFault ∧ s.ph = .d2 ∧ s.par.cRx ≤ s.rxWcur.toNat) := by decide

/-- Vectors V22a, V22b, V22d. -/
theorem witness_PhaseD3ChoosesTheRuns :
    (let s := draining .d3 3 3 wrapped;
      paramsOk s.par = true ∧ s.flt = .noFault ∧ s.ph = .d3 ∧ s.rcur = s.snap) ∧
    (let s := draining .d3 0 6 wrapped;
      paramsOk s.par = true ∧ s.flt = .noFault ∧ s.ph = .d3 ∧ s.rcur.toNat < s.snap.toNat) ∧
    (let s := draining .d3 6 0 wrapped;
      paramsOk s.par = true ∧ s.flt = .noFault ∧ s.ph = .d3 ∧ s.snap.toNat < s.rcur.toNat) := by decide

theorem witness_PhaseD4CopiesOrCloses :
    (let s := { draining .d4 6 0 wrapped with dptr := 7, dend := 8, dcnt := 1 };
      paramsOk s.par = true ∧ s.flt = .noFault ∧ s.ph = .d4 ∧ s.dend.toNat ≤ s.par.cRx ∧ s.dptr.toNat < s.dend.toNat ∧
        s.dcnt.toNat < s.par.cRx ∧ s.mem.read (rxAddr s.par s.dptr.toNat) = some 7) ∧
    (let s := { draining .d4 6 0 wrapped with dptr := 7, dend := 8, dcnt := 1, mem := [] };
      paramsOk s.par = true ∧ s.flt = .noFault ∧ s.ph = .d4 ∧ s.dend.toNat ≤ s.par.cRx ∧ s.dptr.toNat < s.dend.toNat ∧
        s.mem.read (rxAddr s.par s.dptr.toNat) = none) ∧
    (let s := { draining .d4 0 7 wrapped with dptr := 7, dend := 7, dcnt := 7 };
      paramsOk s.par = true ∧ s.flt = .noFault ∧ s.ph = .d4 ∧ s.dend.toNat ≤ s.par.cRx ∧ s.dend.toNat ≤ s.dptr.toNat ∧
        s.dend = s.snap ∧ s.snap.toNat < s.par.cRx) ∧
    (let s := { draining .d4 0 8 wrapped with dptr := 8, dend := 8, dcnt := 7 };
      paramsOk s.par = true ∧ s.flt = .noFault ∧ s.ph = .d4 ∧ s.dend.toNat ≤ s.par.cRx ∧ s.dend.toNat ≤ s.dptr.toNat ∧
        s.dend = s.snap ∧ s.par.cRx ≤ s.snap.toNat) ∧
    (let s := { draining .d4 6 0 wrapped with dptr := 8, dend := 8, dcnt := 2 };
      paramsOk s.par = true ∧ s.flt = .noFault ∧ s.ph = .d4 ∧ s.dend.toNat ≤ s.par.cRx ∧ s.dend.toNat ≤ s.dptr.toNat ∧
        s.dend ≠ s.snap) := by decide

/-- The first call on a started channel, and a later one whose data wraps. -/
theorem witness_DrainRunsAsDrainAtomic :
    (Inv (received [1, 2]) ∧ (received [1, 2]).flt = .noFault ∧ (received [1, 2]).ph = .idle ∧ (received [1, 2]).cfg = true ∧
      (received [1, 2]).rxStarted = true) ∧
      (Inv wrapped ∧ wrapped.flt = .noFault ∧ wrapped.ph = .idle ∧ wrapped.cfg = true ∧ wrapped.rcurValid = true) :=
  ⟨⟨inv_received, by decide, by decide, by decide, by decide⟩, inv_wrapped, by decide, by decide, by decide, by decide⟩

theorem witness_DrainNeverBlocksPastTheStart :
    (Inv { received [1, 2] with ph := .d1 } ∧ ({ received [1, 2] with ph := .d1 } : State).rxStarted = true) ∧
      Inv (draining .d2 6 0 wrapped) ∧ Inv (draining .d3 0 0 (received [])) ∧
      Inv { draining .d4 6 0 wrapped with dptr := 6, dend := 8 } ∧
      agentOf (.rxbyte 0x10) ≠ .seq ∧ ∃ t, exec (.rxbyte 0x10) (draining .d2 6 0 wrapped) = .next t :=
  ⟨⟨inv_d1, by decide⟩, inv_d2, inv_d3, inv_d4, by decide, _, rfl⟩

theorem witness_RxstartSignalsTheStart :
    (configured.flt = .noFault ∧ configured.cfg = true ∧ configured.rxStarted = false) ∧
      (State.reset.flt = .noFault ∧ State.reset.cfg = false) ∧
      ((received []).flt = .noFault ∧ (received []).rxStarted = true) := by decide

theorem witness_RxbyteWritesAndAdvances :
    (let s := { received [] with rxWcur := 7 };
      paramsOk s.par = true ∧ s.flt = .noFault ∧ s.rxWcur.toNat < s.par.cRx ∧ s.rxStarted = true) ∧
    (paramsOk configured.par = true ∧ configured.flt = .noFault ∧ configured.rxWcur.toNat < configured.par.cRx ∧
      configured.rxStarted = false) := by decide

/-- The step is an RXBYTE into a channel that holds six undrained bytes: `C_rx - 2`, so NoLap still holds after it. -/
theorem witness_EveryStepKeepsArrivalOrder :
    let s := offerLabel 0x80070000 (received [1, 2, 3, 4, 5, 6]);
    Inv s ∧ RxAccount s ∧ s.noLap = true ∧ ∃ t, step s = .next t := by
  refine ⟨⟨by decide, by decide, by decide, by decide, by decide, ?_, ?_, ?_⟩, ?_, by decide, _, rfl⟩ <;>
    constructor <;> decide

theorem witness_DrainReturnsTheNextArrivals_empty :
    let s := draining .d3 0 0 (received []);
    Inv s ∧ RxAccount s ∧ s.flt = .noFault ∧ s.ph = .d3 ∧ ∃ t, exec .seq s = .next t ∧ t.ph = .idle :=
  ⟨inv_d3, rxAccount_d3, by decide, by decide, _, rfl, by decide⟩

theorem witness_DrainReturnsTheNextArrivals :
    Inv closing ∧ RxAccount closing ∧ closing.flt = .noFault ∧ closing.ph = .d4 ∧
      ∃ t, exec .seq closing = .next t ∧ t.ph = .idle :=
  ⟨inv_closing, rxAccount_closing, by decide, by decide, _, rfl, by decide⟩

/-- Both cursors at a boundary: equal, the write cursor ahead, the write cursor behind. -/
theorem witness_CursorArithmetic :
    let p := Config.vectorParams;
    paramsOk p = true ∧ (0 < p.cRx ∧ (0 : Nat) = 0) ∧ (7 < p.cRx ∧ 0 < p.cRx ∧ 0 < 7) := by decide

theorem witness_LapMakesTheCountAmbiguous :
    paramsOk Config.vectorParams = true ∧ 7 < Config.vectorParams.cRx ∧ 7 ≤ Config.vectorParams.cRx - 1 := by decide

theorem witness_ChannelAddressesAreValidated :
    paramsOk strided = true ∧ 7 < strided.cRx ∧ rxOff strided 0x2000101C = some 7 ∧
      ∀ c, c < strided.cRx → 0x20001012 ≠ rxAddr strided c := by decide

theorem witness_IrqtakeDeliversTheSignal :
    (let s := { configured with irqPend := true };
      s.flt = .noFault ∧ s.irqPend = true ∧ s.irqMask = false) ∧
    (configured.flt = .noFault ∧ configured.irqPend = false) ∧
    (let s := { configured with irqPend := true, irqMask := true };
      s.flt = .noFault ∧ s.irqMask = true) ∧
    (let s := committed [0x58] (sending 3 [0x41, 0x42, 0x43]);
      Inv s ∧ s.flt = .noFault ∧ s.ph = .s5) :=
  ⟨by decide, by decide, by decide, inv_s5, by decide, by decide⟩

theorem witness_FaultStopsEveryAgent :
    let s := { State.reset with flt := .notConfigured, fltInfo := 2 };
    s.flt ≠ .noFault ∧ paramsOk s.par = true ∧ s.flt = .notConfigured := by decide

theorem witness_FaultStopsEveryAgent_others :
    ({ configured with flt := .cursorInvalid, fltInfo := 8 } : State).flt = .cursorInvalid ∧
      ({ configured with flt := .uninitRead } : State).flt = .uninitRead := by decide

theorem witness_ConfiguredBlockNeverFaults :
    let s := committed [0x58] (sending 3 [0x41, 0x42, 0x43]);
    Inv s ∧ s.cfg = true ∧ s.flt = .noFault ∧ ∃ t, step s = .next t :=
  ⟨inv_s5, by decide, by decide, _, rfl⟩

theorem witness_OnlyNotConfiguredIsReachable :
    Inv State.reset ∧ State.reset.flt = .noFault ∧
      (∃ t, exec (.submit 1 [0x41]) State.reset = .next t ∧ t.flt ≠ .noFault) ∧
      ∃ t, exec .drain State.reset = .next t ∧ t.flt ≠ .noFault :=
  ⟨inv_reset, by decide, ⟨_, rfl, by decide⟩, _, rfl, by decide⟩

/-- A step of the sequencer at S5 and one with no turn left. -/
theorem witness_EveryStepKeepsTheInvariants :
    let s := offerLabel 0xF0000000 (committed [0x58] (sending 3 [0x41, 0x42, 0x43]));
    Inv s ∧ ∃ t, step s = .next t := by
  refine ⟨⟨by decide, by decide, by decide, by decide, by decide, ?_, ?_, ?_⟩, _, rfl⟩ <;> constructor <;> decide

theorem witness_ResetMeetsTheInvariants :
    paramsOk Config.vectorParams = true ∧ paramsOk strided = true ∧
      paramsOk ⟨65535, 2, 1, 0, 0xFFFFFFFE, true⟩ = true := by decide

theorem witness_AgentsWriteOnlyWhatTheyOwn :
    (Inv (received [1, 2]) ∧ ∃ t, exec (.rxbyte 3) (received [1, 2]) = .next t) ∧
      (Inv (sending 1 [0x41, 0x42, 0x43]) ∧ (∃ t, exec .txsend (sending 1 [0x41, 0x42, 0x43]) = .next t) ∧
        ∃ t, exec .csenter (sending 1 [0x41, 0x42, 0x43]) = .next t) ∧
      (Inv (submitting .s6 [0x58] configured) ∧ ∃ t, exec .seq (submitting .s6 [0x58] configured) = .next t) ∧
      Inv wrapped ∧ ∃ t, exec .irqtake wrapped = .next t :=
  ⟨⟨inv_received, _, rfl⟩, ⟨inv_sending, ⟨_, rfl⟩, _, rfl⟩, ⟨inv_s6, _, rfl⟩, inv_wrapped, _, rfl⟩

theorem witness_StoresGoOnlyWhereTheRulesSay :
    (∃ t, exec .txsend (sending 1 [0x41, 0x42, 0x43]) = .next t) ∧ (∃ t, exec (.rxbyte 3) (received [1, 2]) = .next t) ∧
      (∃ t, exec .seq (draining .d3 6 0 wrapped) = .next t) ∧
      (∃ t, exec .seq (submitting .s2 [0x58] configured) = .next t) ∧
      ∃ t, exec .seq (submitting .s6 [0x58] configured) = .next t :=
  ⟨⟨_, rfl⟩, ⟨_, rfl⟩, ⟨_, rfl⟩, ⟨_, rfl⟩, _, rfl⟩

theorem witness_OnlyResetClears : Inv wrapped ∧ (∃ t, step wrapped = .next t) ∧ wrapped.cfg = true ∧ wrapped.rcurValid = true :=
  ⟨inv_wrapped, ⟨_, rfl⟩, by decide, by decide⟩

theorem witness_FinalStateHasNoAutonomousStep :
    configured.isFinal = true ∧ ({ configured with irqPend := true, irqMask := true } : State).isFinal = true := by decide

end Sys2Proof.Tests
end

section
/-! SUPPORT. What the sequencer, the inputs and every instruction keep: the invariants of rule R40, part by part. -/

namespace Sys2Proof.Machine

variable {s t : State}

/-! ## The sequencer's step, by its phase -/

/-- A sequencer step that answers a next state is the rule of one of the phases the rules write (rule R184). -/
theorem seqPhase_next (h : seqPhase s = .next t) :
    s.ph = .idle ∧ t = s ∨ s.ph = .s1 ∧ phaseS1 s = .next t ∨ s.ph = .s2 ∧ phaseS2 s = .next t ∨
      s.ph = .s3 ∧ phaseS3 s = .next t ∨ s.ph = .s4 ∧ phaseS4 s = .next t ∨ s.ph = .s5 ∧ phaseS5 s = .next t ∨
      s.ph = .s6 ∧ phaseS6 s = .next t ∨ s.ph = .d1 ∧ phaseD1 s = .next t ∨ s.ph = .d2 ∧ phaseD2 s = .next t ∨
      s.ph = .d3 ∧ phaseD3 s = .next t ∨ s.ph = .d4 ∧ phaseD4 s = .next t := by
  cases hph : s.ph <;> simp only [seqPhase, hph, reduceCtorEq, Host.Outcome.next.injEq] at h <;> simp [h]

/-! ## Frames: what each part of the invariants reads -/

/-- The TX side reads the TX registers, the bytes of TxBuffer and `cfg`; of the phase only whether it is the fallback window. -/
theorem TxInv.frame (h : TxInv s) (hp : t.par = s.par := by rfl) (hl : t.txLen = s.txLen := by rfl)
    (ha : t.txActive = s.txActive := by rfl) (hs : t.txSent = s.txSent := by rfl)
    (hb : ∀ k < s.par.cTx, (s.txbuf k).isSome = true → (t.txbuf k).isSome = true := by exact fun _ _ hk => hk)
    (hc : s.cfg = true → t.cfg = true := by exact id)
    (hph : s.txActive = false → t.ph ≠ .s5 → t.ph ≠ .s6 → s.ph ≠ .s5 ∧ s.ph ≠ .s6 := by
      exact fun _ h5 h6 => ⟨h5, h6⟩) : TxInv t where
  lenBound := by rw [hl, hp]; exact h.lenBound
  sentBound := by rw [hl, ha, hs]; exact h.sentBound
  windowFilled := by
    rw [hl, ha]
    exact fun h1 k hk => hb k (hk.trans_le h.lenBound) (h.windowFilled h1 k hk)
  idleLen := by
    rw [hl, ha]
    exact fun h1 h5 h6 => h.idleLen h1 (hph h1 h5 h6).1 (hph h1 h5 h6).2
  idleSent := by rw [ha, hs]; exact h.idleSent
  activeCfg := by rw [ha]; exact fun h1 => hc (h.activeCfg h1)

/-- The part on SUBMIT reads, at a phase kept, the latches, the sampled length, the payload's bytes and the mask; a transfer
may end meanwhile (rule R128). -/
theorem SubmitInv.frame (h : SubmitInv s) (hp : t.par = s.par := by rfl) (hph : t.ph = s.ph := by rfl)
    (hn : t.opN = s.opN := by rfl) (ho : t.opBytes = s.opBytes := by rfl) (hL : t.sL = s.sL := by rfl)
    (hm : t.irqMask = s.irqMask := by rfl) (hb : ∀ k < s.par.cTx, t.txbuf k = s.txbuf k := by exact fun _ _ => rfl)
    (ha : t.txActive = true → s.txActive = true ∧ t.txLen = s.txLen := by exact fun h1 => ⟨h1, rfl⟩) :
    SubmitInv t where
  payload := by rw [hph, hn, ho]; exact h.payload
  count := by rw [hph, hn, hp]; exact h.count
  fits := by rw [hph, hn, hp, hL]; exact h.fits
  sampled := by
    rw [hph, hL]
    intro h1 h2
    rw [(ha h2).2]
    exact h.sampled h1 (ha h2).1
  copied := by
    simp only [hph, hL, ho]
    intro h1 k hk
    have hfit := h.fits (by tauto)
    have hlen := h.payload (by rcases h1 with h1 | h1 <;> rw [h1] <;> rfl)
    rw [hb _ (by omega)]
    exact h.copied h1 k hk
  extended := by
    rw [hph, hn, hL]
    intro h1 h2
    rw [(ha h2).2]
    exact h.extended h1 (ha h2).1
  restart := by
    rw [hph]
    intro h1
    by_contra h2
    have := (ha (by simpa using h2)).1
    rw [h.restart h1] at this
    cases this
  masked := by rw [hph, hm]; exact h.masked

theorem Phase.not_inSubmit {p : Phase} (h : p.inSubmit = false) :
    p ≠ .s2 ∧ p ≠ .s3 ∧ p ≠ .s4 ∧ p ≠ .s5 ∧ p ≠ .s6 := by
  revert h; cases p <;> decide

/-- Outside a SUBMIT its part of the invariants says nothing. -/
theorem SubmitInv.of_not_inSubmit (h : s.ph.inSubmit = false) : SubmitInv s := by
  obtain ⟨h2, h3, h4, h5, h6⟩ := Phase.not_inSubmit h
  exact {
    payload := by simp [h]
    count := by simp [h2, h3, h4, h5, h6]
    fits := by simp [h2, h3, h4, h5]
    sampled := by simp [h2, h3, h4]
    copied := by simp [h3, h4]
    extended := by simp [h5]
    restart := by simp [h6]
    masked := by simp [h4, h5] }

/-- The RX side reads the RX registers, the bytes of RxBuffer and `cfg`; of the phase only where DRAIN stands after D1, and
then its working registers. -/
theorem RxInv.frame (h : RxInv s) (hp : t.par = s.par := by rfl) (hw : t.rxWcur = s.rxWcur := by rfl)
    (hr : t.rcur = s.rcur := by rfl) (hv : t.rcurValid = s.rcurValid := by rfl)
    (hst : t.rxStarted = s.rxStarted := by rfl)
    (hb : ∀ k, (s.rxbuf k).isSome = true → (t.rxbuf k).isSome = true := by exact fun _ hk => hk)
    (hc : s.cfg = true → t.cfg = true := by exact id)
    (hd : t.ph = .d2 ∨ t.ph = .d3 ∨ t.ph = .d4 →
      t.ph = s.ph ∧ t.snap = s.snap ∧ t.dptr = s.dptr ∧ t.dend = s.dend ∧ t.dcnt = s.dcnt := by
        exact fun _ => ⟨rfl, rfl, rfl, rfl, rfl⟩) : RxInv t where
  rcurBound := by rw [hv, hr, hp]; exact h.rcurBound
  wcurBound := by rw [hw, hp]; exact h.wcurBound
  validStarted := by rw [hv, hst]; exact h.validStarted
  startedCfg := by rw [hst]; exact fun h1 => hc (h.startedCfg h1)
  drainValid := fun h1 => by rw [hv]; exact h.drainValid ((hd h1).1 ▸ h1)
  snapBound := fun h1 => by
    obtain ⟨hph, hsn, -⟩ := hd (.inr h1)
    rw [hsn, hp]; exact h.snapBound (hph ▸ h1)
  runEnd := fun h1 => by
    obtain ⟨hph, hsn, -, hde, -⟩ := hd (.inr (.inr h1))
    rw [hsn, hde, hp]; exact h.runEnd (hph ▸ h1)
  runPtr := fun h1 => by
    obtain ⟨hph, -, hdp, hde, -⟩ := hd (.inr (.inr h1))
    rw [hdp, hde]; exact h.runPtr (hph ▸ h1)
  runCount := fun h1 => by
    obtain ⟨hph, hsn, hdp, hde, hdc⟩ := hd (.inr (.inr h1))
    have hleft : t.runLeft = s.runLeft := by simp only [State.runLeft, hsn, hdp, hde, hp]
    rw [hleft, hdc, hp]; exact h.runCount (hph ▸ h1)
  written := by rw [hw]; exact fun k hk => hb k (h.written k hk)
  wrapped := by
    rw [hp, hw, hr, hv]
    refine h.wrapped.imp (fun hall k hk => hb k (hall k hk)) fun ⟨hcur, hsnap, hrun⟩ => ⟨hcur, fun h1 => ?_, fun h1 => ?_⟩
    · obtain ⟨hph, hsn, -⟩ := hd (.inr h1)
      rw [hsn]; exact hsnap (hph ▸ h1)
    · obtain ⟨hph, hsn, -, hde, -⟩ := hd (.inr (.inr h1))
      rw [hsn, hde]; exact hrun (hph ▸ h1)

/-- The invariants speak of no fault, stream, draw, input or pending signal. -/
theorem Inv.of_unread {f : Flt} {n d : Nat} {o : Streams} {ps : List Presented} {ts : List Turn} {p : Bool} (hi : Inv s) :
    Inv { s with flt := f, fltInfo := n, draws := d, obs := o, port := ps, sched := ts, irqPend := p } :=
  { hi with tx := hi.tx.frame, submit := hi.submit.frame, rx := hi.rx.frame }

/-! ## Commands -/

theorem execInit_keeps_inv (hi : Inv s) (h : execInit s = .next t) : Inv t := by
  obtain ⟨-, ⟨hph, -, rfl⟩ | ⟨-, rfl⟩⟩ := execInit_next h
  · obtain ⟨-, -, hrx, -⟩ := (paramsOk_iff _).1 hi.params
    exact { hi with
      busyCfg := fun _ => rfl
      tx := ⟨Nat.zero_le _, nofun, nofun, fun _ _ _ => rfl, fun _ => rfl, nofun⟩
      submit := .of_not_inSubmit (by simp [hph, Phase.inSubmit])
      rx := {
        rcurBound := nofun
        wcurBound := show 0 < s.par.cRx by omega
        validStarted := nofun
        startedCfg := nofun
        drainValid := by simp [hph]
        snapBound := by simp [hph]
        runEnd := by simp [hph]
        runPtr := by simp [hph]
        runCount := by simp [hph]
        written := fun k hk => absurd hk (Nat.not_lt_zero k)
        wrapped := .inr ⟨nofun, by simp [hph], by simp [hph]⟩ } }
  · exact hi

theorem execSubmit_keeps_inv {n : Len} {ps : List Byte} (hi : Inv s) (hl : ps.length = n.toNat)
    (h : execSubmit n ps s = .next t) : Inv t := by
  obtain ⟨-, ⟨hph, hc, rfl⟩ | ⟨-, -, rfl⟩ | ⟨-, rfl⟩⟩ := execSubmit_next h
  · exact { hi with
      legal := rfl
      busyCfg := fun _ => hc
      tx := hi.tx.frame (hph := by simp [hph])
      submit := {
        payload := fun _ => hl
        count := by simp
        fits := by simp
        sampled := by simp
        copied := by simp
        extended := by simp
        restart := by simp
        masked := by simp }
      rx := hi.rx.frame (hd := by simp) }
  · exact hi.of_unread
  · exact hi

theorem execDrain_keeps_inv (hi : Inv s) (h : execDrain s = .next t) : Inv t := by
  obtain ⟨-, ⟨hph, hc, rfl⟩ | ⟨-, -, rfl⟩ | ⟨-, rfl⟩⟩ := execDrain_next h
  · exact { hi with
      legal := rfl
      busyCfg := fun _ => hc
      tx := hi.tx.frame (hph := by simp [hph])
      submit := .of_not_inSubmit rfl
      rx := hi.rx.frame (hd := by simp) }
  · exact hi.of_unread
  · exact hi

/-- At IDLE the mask is free: I8 speaks of S4 and S5 only. -/
theorem Inv.setMask (hi : Inv s) (hph : s.ph = .idle) (m : Bool) : Inv (setMask m s) :=
  { hi with tx := hi.tx.frame, submit := .of_not_inSubmit (by simp [hph, Phase.inSubmit]), rx := hi.rx.frame }

theorem execCsenter_keeps_inv (hi : Inv s) (h : execCsenter s = .next t) : Inv t := by
  obtain ⟨-, ⟨hph, rfl⟩ | ⟨-, rfl⟩⟩ := execCsenter_next h
  · exact (hi.setMask hph true).of_unread
  · exact hi

theorem execCsexit_keeps_inv {m : Bool} (hi : Inv s) (h : execCsexit m s = .next t) : Inv t := by
  obtain ⟨-, ⟨hph, rfl⟩ | ⟨-, rfl⟩⟩ := execCsexit_next h
  · exact (hi.setMask hph m).of_unread
  · exact hi

theorem execRdreg_keeps_inv {r : StatusReg} (hi : Inv s) (h : execRdreg r s = .next t) : Inv t := by
  obtain ⟨-, ⟨-, d, rfl⟩ | ⟨-, rfl⟩⟩ := execRdreg_next h
  · exact hi.of_unread
  · exact hi

/-! ## The phases of SUBMIT -/

theorem Inv.respondCapacityExceeded (hi : Inv s) (hph : s.ph = .s1) : Inv (respondCapacityExceeded s) :=
  { hi with
    legal := rfl
    busyCfg := fun h => absurd rfl h
    tx := hi.tx.frame (hph := by simp [hph])
    submit := .of_not_inSubmit rfl
    rx := hi.rx.frame (hd := by simp [Machine.respondCapacityExceeded]) }

theorem phaseS1_keeps_inv (hi : Inv s) (hph : s.ph = .s1) (h : phaseS1 s = .next t) : Inv t := by
  obtain ⟨hpos, rfl | ⟨hcap, hfit, rfl⟩⟩ := phaseS1_next h
  · exact hi.respondCapacityExceeded hph
  · have hlen := hi.tx.lenBound
    have hroom : s.activeLength.toNat + s.opN.toNat ≤ s.par.cTx := by
      cases ha : s.txActive
      · simpa [State.activeLength, ha] using hcap
      · have := hfit ha
        simp only [State.activeLength, ha, if_true]
        omega
    exact { hi with
      legal := rfl
      busyCfg := fun _ => hi.busyCfg (by simp [hph])
      tx := hi.tx.frame (hph := by simp [hph])
      submit := {
        payload := fun _ => hi.submit.payload (by rw [hph]; rfl)
        count := fun _ => ⟨hpos, hcap⟩
        fits := fun _ => hroom
        sampled := fun _ ha => if_pos ha
        copied := by simp
        extended := by simp
        restart := by simp
        masked := by simp }
      rx := hi.rx.frame (hd := by simp) }

/-- A copied payload is read back from its offsets. -/
theorem txbuf_storeRun_inside {off k : Nat} {vs : List Byte} (hk : k < vs.length) :
    (storeRun (txAddr s.par off) vs s).txbuf (off + k) = some vs[k] := by
  rw [txbuf_storeRun, if_pos ⟨by omega, by omega⟩, Nat.add_sub_cancel_left, List.getElem?_eq_getElem hk]

/-- The copy of S2 and S6 keeps what the invariants say of memory. -/
theorem Inv.storeRun_mem {off : Nat} (hi : Inv s) (hb : off + s.opBytes.length ≤ s.par.cTx) :
    (storeRun (txAddr s.par off) s.opBytes s).mem.wf ∧
      ∀ c ∈ (storeRun (txAddr s.par off) s.opBytes s).mem, isElement s.par c.1 = true :=
  ⟨writeRun_wf _ _ hi.memWf, mapped_storeRun _ hb hi.memMapped⟩

theorem phaseS2_keeps_inv (hi : Inv s) (hph : s.ph = .s2) (h : phaseS2 s = .next t) : Inv t := by
  obtain ⟨hl, rfl⟩ := phaseS2_next h
  have hfit := hi.submit.fits (.inl hph)
  obtain ⟨hwf, hmap⟩ := hi.storeRun_mem (off := s.sL.toNat) (by omega)
  exact { hi with
    memWf := hwf
    memMapped := hmap
    legal := rfl
    busyCfg := fun _ => hi.busyCfg (by simp [hph])
    tx := hi.tx.frame (hb := fun k _ => isSome_txbuf_storeRun _ k _) (hph := by simp [hph])
    submit := {
      payload := fun _ => hl
      count := fun _ => hi.submit.count (.inl hph)
      fits := fun _ => hfit
      sampled := fun _ => hi.submit.sampled (.inl hph)
      copied := fun _ _ hk => txbuf_storeRun_inside hk
      extended := by simp
      restart := by simp
      masked := by simp }
    rx := hi.rx.frame (hb := fun k => isSome_read_writeRun _ _ _ _) (hd := by simp) }

theorem phaseS3_keeps_inv (hi : Inv s) (hph : s.ph = .s3) (h : phaseS3 s = .next t) : Inv t := by
  obtain rfl := phaseS3_next h
  exact { hi with
    legal := rfl
    busyCfg := fun _ => hi.busyCfg (by simp [hph])
    tx := hi.tx.frame (hph := by simp [hph])
    submit := {
      payload := fun _ => hi.submit.payload (by rw [hph]; rfl)
      count := fun _ => hi.submit.count (by simp [hph])
      fits := fun _ => hi.submit.fits (by simp [hph])
      sampled := fun _ => hi.submit.sampled (by simp [hph])
      copied := fun _ => hi.submit.copied (.inl hph)
      extended := by simp
      restart := by simp
      masked := fun _ => rfl }
    rx := hi.rx.frame (hd := by simp) }

/-- At S4 the window and the payload behind it hold values. -/
theorem Inv.extendedWindow_filled (hi : Inv s) (hph : s.ph = .s4) (ha : s.txActive = true) {k : Nat}
    (hk : k < s.sL.toNat + s.opN.toNat) : (s.txbuf k).isSome = true := by
  rcases Nat.lt_or_ge k s.sL.toNat with hlt | hge
  · rw [hi.submit.sampled (by simp [hph]) ha] at hlt
    exact hi.tx.windowFilled ha k hlt
  · have hlen := hi.submit.payload (by rw [hph]; rfl)
    have hcopied := hi.submit.copied (.inr hph) (k - s.sL.toNat) (by omega)
    rw [Nat.add_sub_cancel' hge] at hcopied
    rw [hcopied]; rfl

theorem phaseS4_keeps_inv (hi : Inv s) (hph : s.ph = .s4) (h : phaseS4 s = .next t) : Inv t := by
  obtain rfl := phaseS4_next h
  have hfit := hi.submit.fits (by simp [hph])
  obtain ⟨-, htx, -⟩ := (paramsOk_iff _).1 hi.params
  have hlen : (len (s.sL.toNat + s.opN.toNat)).toNat = s.sL.toNat + s.opN.toNat := len_toNat (by omega)
  exact { hi with
    legal := rfl
    busyCfg := fun _ => hi.busyCfg (by simp [hph])
    tx := { hi.tx with
      lenBound := hlen.trans_le hfit
      sentBound := fun ha => by
        have hsent := hi.tx.sentBound ha
        rw [← hi.submit.sampled (by simp [hph]) ha] at hsent
        show s.txSent.toNat ≤ (len _).toNat
        omega
      windowFilled := fun ha k hk => hi.extendedWindow_filled hph ha (hlen ▸ hk)
      idleLen := fun _ h5 => absurd rfl h5 }
    submit := {
      payload := fun _ => hi.submit.payload (by rw [hph]; rfl)
      count := fun _ => hi.submit.count (by simp [hph])
      fits := fun _ => hfit
      sampled := by simp
      copied := by simp
      extended := fun _ _ => hlen
      restart := by simp
      masked := fun _ => hi.submit.masked (.inl hph) }
    rx := hi.rx.frame (hd := by simp) }

theorem phaseS5_keeps_inv (hi : Inv s) (hph : s.ph = .s5) (h : phaseS5 s = .next t) : Inv t := by
  obtain ⟨ha, rfl⟩ | ⟨ha, rfl⟩ := phaseS5_next h
  · exact { hi with
      legal := rfl
      busyCfg := fun h => absurd rfl h
      tx := hi.tx.frame (hph := by simp [ha])
      submit := .of_not_inSubmit rfl
      rx := hi.rx.frame (hd := by simp) }
  · exact { hi with
      legal := rfl
      busyCfg := fun _ => hi.busyCfg (by simp [hph])
      tx := hi.tx.frame (hph := by simp)
      submit := {
        payload := fun _ => hi.submit.payload (by rw [hph]; rfl)
        count := fun _ => hi.submit.count (by simp [hph])
        fits := by simp
        sampled := by simp
        copied := by simp
        extended := by simp
        restart := fun _ => ha
        masked := by simp }
      rx := hi.rx.frame (hd := by simp) }

theorem phaseS6_keeps_inv (hi : Inv s) (hph : s.ph = .s6) (h : phaseS6 s = .next t) : Inv t := by
  obtain ⟨hl, rfl⟩ := phaseS6_next h
  obtain ⟨-, hcap⟩ := hi.submit.count (by simp [hph])
  obtain ⟨hwf, hmap⟩ := hi.storeRun_mem (off := 0) (by omega)
  exact { hi with
    memWf := hwf
    memMapped := hmap
    legal := rfl
    busyCfg := fun h => absurd rfl h
    tx := {
      lenBound := hcap
      sentBound := fun _ => Nat.zero_le _
      windowFilled := fun _ k hk => by
        have hread := txbuf_storeRun_inside (s := s) (off := 0) (show k < s.opBytes.length from hl ▸ hk)
        rw [Nat.zero_add] at hread
        exact Option.isSome_of_eq_some hread
      idleLen := nofun
      idleSent := nofun
      activeCfg := fun _ => hi.busyCfg (by simp [hph]) }
    submit := .of_not_inSubmit rfl
    rx := hi.rx.frame (hb := fun k => isSome_read_writeRun _ _ _ _) (hd := by simp) }

/-! ## The phases of DRAIN -/

/-- What a DRAIN has set up when D2 is next: an initialized read cursor in its place. -/
theorem RxInv.of_d2 (hph : s.ph = .d2) (hw : s.rxWcur.toNat < s.par.cRx) (hr : s.rcur.toNat < s.par.cRx)
    (hv : s.rcurValid = true) (hst : s.rxStarted = true) (hc : s.rxStarted = true → s.cfg = true)
    (hwr : ∀ k < s.rxWcur.toNat, (s.rxbuf k).isSome = true)
    (hwrap : (∀ k < s.par.cRx, (s.rxbuf k).isSome = true) ∨ s.rcur.toNat ≤ s.rxWcur.toNat) : RxInv s where
  rcurBound := fun _ => hr
  wcurBound := hw
  validStarted := fun _ => hst
  startedCfg := hc
  drainValid := fun _ => hv
  snapBound := by simp [hph]
  runEnd := by simp [hph]
  runPtr := by simp [hph]
  runCount := by simp [hph]
  written := hwr
  wrapped := hwrap.imp id fun h => ⟨fun _ => h, by simp [hph], by simp [hph]⟩

theorem phaseD1_keeps_inv (hi : Inv s) (hph : s.ph = .d1) (h : phaseD1 s = .next t) : Inv t := by
  have hc := hi.busyCfg (by simp [hph])
  obtain ⟨hv, rfl⟩ | ⟨-, hst, hpos, rfl⟩ | ⟨-, -, -, rfl⟩ | ⟨-, -, rfl⟩ := phaseD1_next h
  · exact { hi with
      legal := rfl
      busyCfg := fun _ => hc
      tx := hi.tx.frame (hph := by simp [hph])
      submit := .of_not_inSubmit rfl
      rx := .of_d2 rfl hi.rx.wcurBound (hi.rx.rcurBound hv) hv (hi.rx.validStarted hv) hi.rx.startedCfg hi.rx.written
        (hi.rx.wrapped.imp id fun ⟨hcur, _⟩ => hcur hv) }
  · exact { hi with
      legal := rfl
      busyCfg := fun _ => hc
      tx := hi.tx.frame (hph := by simp [hph])
      submit := .of_not_inSubmit rfl
      rx := .of_d2 rfl hi.rx.wcurBound hpos rfl hst hi.rx.startedCfg hi.rx.written (.inr (Nat.zero_le _)) }
  · exact hi.of_unread
  · exact hi

theorem phaseD2_keeps_inv (hi : Inv s) (hph : s.ph = .d2) (h : phaseD2 s = .next t) : Inv t := by
  obtain ⟨-, -, -, -, hs, -⟩ := (paramsOk_iff _).1 hi.params
  have hv := hi.rx.drainValid (.inl hph)
  obtain ⟨hw, rfl⟩ | ⟨-, rfl⟩ := phaseD2_next hs h
  · exact { hi with
      legal := rfl
      busyCfg := fun _ => hi.busyCfg (by simp [hph])
      tx := hi.tx.frame (hph := by simp [hph])
      submit := .of_not_inSubmit rfl
      rx := { hi.rx with
        drainValid := fun _ => hv
        snapBound := fun _ => hw
        runEnd := by simp
        runPtr := by simp
        runCount := by simp
        wrapped := hi.rx.wrapped.imp id fun ⟨hcur, _⟩ => ⟨hcur, fun _ => ⟨le_rfl, hcur hv⟩, by simp⟩ } }
  · exact hi.of_unread

/-- DRAIN at D4 with a run set up: the cursor, the run and the count are within their bounds. -/
theorem Inv.of_run {r p e c : Len} {ph : Phase} (hi : Inv s) (hs : s.ph = .d3 ∨ s.ph = .d4) (hr : r.toNat < s.par.cRx)
    (hend : e = s.snap ∨ e.toNat = s.par.cRx) (hptr : p.toNat ≤ e.toNat)
    (hcnt : c.toNat + (if e = s.snap then s.snap.toNat - p.toNat else s.par.cRx - p.toNat + s.snap.toNat) < s.par.cRx)
    (hwrap : (∀ k < s.par.cRx, (s.rxbuf k).isSome = true) ∨
      r.toNat ≤ s.rxWcur.toNat ∧ s.snap.toNat ≤ s.rxWcur.toNat ∧ r.toNat ≤ s.snap.toNat ∧ e = s.snap)
    (hph : ph = .d4 := by rfl) : Inv { s with rcur := r, dptr := p, dend := e, dcnt := c, ph := ph } := by
  subst hph
  have hv := hi.rx.drainValid (.inr hs)
  exact { hi with
    legal := rfl
    busyCfg := fun _ => hi.busyCfg (by rcases hs with hs | hs <;> simp [hs])
    tx := hi.tx.frame (hph := fun _ _ _ => by rcases hs with hs | hs <;> simp [hs])
    submit := .of_not_inSubmit rfl
    rx := { hi.rx with
      rcurBound := fun _ => hr
      drainValid := fun _ => hv
      snapBound := fun _ => hi.rx.snapBound hs
      runEnd := fun _ => hend
      runPtr := fun _ => hptr
      runCount := fun _ => hcnt
      wrapped := hwrap.imp id fun ⟨h1, h2, h3, h4⟩ => ⟨fun _ => h1, fun _ => ⟨h2, h3⟩, fun _ => h4⟩ } }

/-- A DRAIN ends with the read cursor at its snapshot. -/
theorem Inv.of_drained {r c : Len} (hi : Inv s) (hs : s.ph = .d3 ∨ s.ph = .d4) (hr : r = s.snap) :
    Inv { s with rcur := r, dcnt := c, ph := .idle } :=
  { hi with
    legal := rfl
    busyCfg := fun h => absurd rfl h
    tx := hi.tx.frame (hph := fun _ _ _ => by rcases hs with hs | hs <;> simp [hs])
    submit := .of_not_inSubmit rfl
    rx := { hi.rx with
      rcurBound := fun _ => hr ▸ hi.rx.snapBound hs
      drainValid := by simp
      snapBound := by simp
      runEnd := by simp
      runPtr := by simp
      runCount := by simp
      wrapped := hi.rx.wrapped.imp id fun ⟨_, hsnap, _⟩ => ⟨fun _ => hr ▸ (hsnap hs).1, by simp, by simp⟩ } }

theorem phaseD3_keeps_inv (hi : Inv s) (hph : s.ph = .d3) (h : phaseD3 s = .next t) : Inv t := by
  have hsnap := hi.rx.snapBound (.inl hph)
  have hrcur := hi.rx.rcurBound (hi.rx.drainValid (by simp [hph]))
  obtain ⟨-, -, -, hcRx, -⟩ := (paramsOk_iff _).1 hi.params
  have hlen : (len s.par.cRx).toNat = s.par.cRx := len_toNat (by omega)
  obtain ⟨heq, rfl⟩ | ⟨hlt, rfl⟩ | ⟨hgt, rfl⟩ := phaseD3_next h
  · exact (hi.of_drained (.inl hph) heq).of_unread
  · refine hi.of_run (.inl hph) hrcur (.inl rfl) hlt.le ?_ (hi.rx.wrapped.imp id fun ⟨_, hw, _⟩ => ?_)
    · rw [if_pos rfl]
      show 0 + _ < _
      omega
    · obtain ⟨h1, h2⟩ := hw (.inl hph)
      exact ⟨h2.trans h1, h1, h2, rfl⟩
  · have hne : len s.par.cRx ≠ s.snap := fun he => by rw [← he, hlen] at hsnap; exact lt_irrefl _ hsnap
    refine hi.of_run (.inl hph) hrcur (.inr hlen) (by omega) ?_ (hi.rx.wrapped.imp id fun ⟨_, hw, _⟩ => ?_)
    · rw [if_neg hne]
      show 0 + _ < _
      omega
    · have := (hw (.inl hph)).2
      omega

theorem phaseD4_keeps_inv (hi : Inv s) (hph : s.ph = .d4) (h : phaseD4 s = .next t) : Inv t := by
  have hsnap := hi.rx.snapBound (.inr hph)
  have hrcur := hi.rx.rcurBound (hi.rx.drainValid (by simp [hph]))
  have hcount := hi.rx.runCount hph
  have hrun := hi.rx.runEnd hph
  obtain ⟨-, -, -, hcRx, -⟩ := (paramsOk_iff _).1 hi.params
  simp only [State.runLeft] at hcount
  obtain ⟨hlt, v, -, rfl⟩ | ⟨-, -, rfl⟩ | ⟨-, -, -, rfl⟩ | ⟨-, -, -, rfl⟩ | ⟨hge, hne, -, rfl⟩ | ⟨-, -, -, rfl⟩ :=
    phaseD4_next h
  · have hend : s.dend.toNat ≤ s.par.cRx := by rcases hrun with he | he <;> rw [he]; omega
    have hptr : (len (s.dptr.toNat + 1)).toNat = s.dptr.toNat + 1 := len_toNat (by omega)
    have hcnt : (len (s.dcnt.toNat + 1)).toNat = s.dcnt.toNat + 1 := len_toNat (by omega)
    refine (hi.of_run (.inr hph) hrcur hrun ?_ ?_ (hi.rx.wrapped.imp id fun ⟨_, hw, he⟩ => ?_) hph).of_unread
    · omega
    · rw [hcnt, hptr]
      by_cases he : s.dend = s.snap
      · rw [if_pos he] at hcount ⊢
        rw [he] at hlt
        omega
      · rw [if_neg he] at hcount ⊢
        rw [hrun.resolve_left he] at hlt
        omega
    · obtain ⟨h1, h2⟩ := hw (.inr hph)
      exact ⟨h2.trans h1, h1, h2, he hph⟩
  · exact hi.of_unread
  · exact (hi.of_drained (.inr hph) rfl).of_unread
  · exact hi.of_unread
  · refine hi.of_run (.inr hph) ?_ (.inl rfl) (Nat.zero_le _) ?_ (hi.rx.wrapped.imp id fun ⟨_, hw, _⟩ => ?_) hph
    · show 0 < s.par.cRx; omega
    · have hptr := hi.rx.runPtr hph
      rw [if_neg hne] at hcount
      rw [if_pos rfl]
      show _ + (_ - 0) < _
      omega
    · exact ⟨Nat.zero_le _, (hw (.inr hph)).1, Nat.zero_le _, rfl⟩
  · exact hi.of_unread

theorem execSeq_keeps_inv (hi : Inv s) (h : execSeq s = .next t) : Inv t := by
  obtain ⟨-, h⟩ := execSeq_next h
  obtain ⟨-, rfl⟩ | ⟨hph, h⟩ | ⟨hph, h⟩ | ⟨hph, h⟩ | ⟨hph, h⟩ | ⟨hph, h⟩ | ⟨hph, h⟩ | ⟨hph, h⟩ | ⟨hph, h⟩ | ⟨hph, h⟩ |
    ⟨hph, h⟩ := seqPhase_next h
  · exact hi
  · exact phaseS1_keeps_inv hi hph h
  · exact phaseS2_keeps_inv hi hph h
  · exact phaseS3_keeps_inv hi hph h
  · exact phaseS4_keeps_inv hi hph h
  · exact phaseS5_keeps_inv hi hph h
  · exact phaseS6_keeps_inv hi hph h
  · exact phaseD1_keeps_inv hi hph h
  · exact phaseD2_keeps_inv hi hph h
  · exact phaseD3_keeps_inv hi hph h
  · exact phaseD4_keeps_inv hi hph h

/-! ## The engines and the interrupt -/

theorem execTxsend_keeps_inv (hi : Inv s) (h : execTxsend s = .next t) : Inv t := by
  obtain ⟨-, ⟨hen, v, -, rfl⟩ | ⟨-, -, rfl⟩ | ⟨-, rfl⟩⟩ := execTxsend_next h
  · obtain ⟨ha, hlt, -⟩ := (canSend_iff s).1 hen
    have hsent : (len (s.txSent.toNat + 1)).toNat = s.txSent.toNat + 1 := len_toNat (by have := s.txLen.isLt; omega)
    have htx : TxInv { s with txSent := len (s.txSent.toNat + 1) } :=
      { hi.tx with
        sentBound := fun _ => hsent.trans_le hlt
        idleSent := fun hidle => by rw [ha] at hidle; cases hidle }
    exact { hi with tx := htx.frame, submit := hi.submit.frame, rx := hi.rx.frame }
  · exact hi.of_unread
  · exact hi

theorem execTxdone_keeps_inv (hi : Inv s) (h : execTxdone s = .next t) : Inv t := by
  obtain ⟨-, ⟨-, -, rfl⟩ | ⟨-, rfl⟩⟩ := execTxdone_next h
  · exact { hi with
      tx := ⟨Nat.zero_le _, nofun, nofun, fun _ _ _ => rfl, fun _ => rfl, nofun⟩
      submit := hi.submit.frame (ha := nofun)
      rx := hi.rx.frame }
  · exact hi

theorem execRxstart_keeps_inv (hi : Inv s) (h : execRxstart s = .next t) : Inv t := by
  obtain ⟨-, ⟨hc, -, rfl⟩ | ⟨-, rfl⟩⟩ := execRxstart_next h
  · exact { hi with
      tx := hi.tx.frame
      submit := hi.submit.frame
      rx := { hi.rx with validStarted := fun _ => rfl, startedCfg := fun _ => hc } }
  · exact hi

/-- The write cursor's advance (rule R151): to the next offset, or from the last one to the origin. -/
theorem Inv.wcur_advance (hi : Inv s) :
    (len ((s.rxWcur.toNat + 1) % s.par.cRx)).toNat = s.rxWcur.toNat + 1 ∧ s.rxWcur.toNat + 1 < s.par.cRx ∨
      (len ((s.rxWcur.toNat + 1) % s.par.cRx)).toNat = 0 ∧ s.rxWcur.toNat + 1 = s.par.cRx := by
  obtain ⟨-, -, -, hcRx, -⟩ := (paramsOk_iff _).1 hi.params
  have hw := hi.rx.wcurBound
  rcases Nat.lt_or_ge (s.rxWcur.toNat + 1) s.par.cRx with hlt | hge
  · rw [Nat.mod_eq_of_lt hlt]
    exact .inl ⟨len_toNat (by omega), hlt⟩
  · have heq : s.rxWcur.toNat + 1 = s.par.cRx := by omega
    rw [heq, Nat.mod_self]
    exact .inr ⟨rfl, rfl⟩

/-- After RXBYTE every element up to the old write cursor holds a value. -/
theorem Inv.isSome_rxbuf_stored (hi : Inv s) (b : Byte) {k : Nat} (hk : k < s.rxWcur.toNat + 1) :
    ((storeByte (rxAddr s.par s.rxWcur.toNat) b s).rxbuf k).isSome = true := by
  obtain ⟨-, -, -, -, hs, -⟩ := (paramsOk_iff _).1 hi.params
  rw [rxbuf_storeByte_rx hs]
  split
  · rfl
  · exact hi.rx.written k (by omega)

/-- A byte stored at the write cursor, and the cursor moved on, keep the RX side: at the wrap every element holds a value. -/
theorem Inv.rx_stored (hi : Inv s) (b : Byte) {w : Len}
    (hw : w.toNat = s.rxWcur.toNat + 1 ∧ s.rxWcur.toNat + 1 < s.par.cRx ∨
      w.toNat = 0 ∧ s.rxWcur.toNat + 1 = s.par.cRx) :
    RxInv { storeByte (rxAddr s.par s.rxWcur.toNat) b s with rxWcur := w } :=
  { hi.rx with
    wcurBound := show w.toNat < s.par.cRx by omega
    written := fun k (hk : k < w.toNat) => hi.isSome_rxbuf_stored b (by omega)
    wrapped := by
      obtain ⟨hnext, -⟩ | ⟨-, hlast⟩ := hw
      · have hle : s.rxWcur.toNat ≤ w.toNat := by omega
        exact hi.rx.wrapped.imp (fun hall k hk => isSome_rxbuf_storeByte _ k b (hall k hk)) fun ⟨hcur, hsnap, hrun⟩ =>
          ⟨fun hv => (hcur hv).trans hle, fun hd => ⟨(hsnap hd).1.trans hle, (hsnap hd).2⟩, hrun⟩
      · exact .inl fun k (hk : k < s.par.cRx) => hi.isSome_rxbuf_stored b (by omega) }

theorem execRxbyte_keeps_inv {b : Byte} (hi : Inv s) (h : execRxbyte b s = .next t) : Inv t := by
  obtain ⟨-, ⟨-, hel, rfl⟩ | ⟨-, rfl⟩⟩ := execRxbyte_next h
  · have htx : ∀ k < s.par.cTx, (storeByte (rxAddr s.par s.rxWcur.toNat) b s).txbuf k = s.txbuf k :=
      fun k hk => txbuf_storeByte_rx hi.params b hi.rx.wcurBound hk
    exact { hi with
      memWf := write_wf _ _ hi.memWf
      memMapped := mapped_storeByte b hel hi.memMapped
      tx := hi.tx.frame (hb := fun k hk hsome => (congrArg Option.isSome (htx k hk)).trans hsome)
      submit := hi.submit.frame (hb := htx)
      rx := (hi.rx_stored b hi.wcur_advance).frame }
  · exact hi

theorem execIrqtake_keeps_inv (hi : Inv s) (h : execIrqtake s = .next t) : Inv t := by
  obtain ⟨-, ⟨-, -, rfl⟩ | ⟨-, rfl⟩⟩ := execIrqtake_next h
  · exact hi.of_unread
  · exact hi

/-! ## Every instruction, and the step -/

/-- Every well-formed instruction keeps the invariants. -/
theorem exec_keeps_inv {i : Instr} (hi : Inv s) (hw : i.wellFormed = true) (h : exec i s = .next t) : Inv t := by
  cases i with
  | init => exact execInit_keeps_inv hi h
  | submit n ps => exact execSubmit_keeps_inv hi (by simpa [Instr.wellFormed] using hw) h
  | drain => exact execDrain_keeps_inv hi h
  | csenter => exact execCsenter_keeps_inv hi h
  | csexit m => exact execCsexit_keeps_inv hi h
  | rdreg r => exact execRdreg_keeps_inv hi h
  | rxbyte b => exact execRxbyte_keeps_inv hi h
  | rxstart => exact execRxstart_keeps_inv hi h
  | txsend => exact execTxsend_keeps_inv hi h
  | txdone => exact execTxdone_keeps_inv hi h
  | irqtake => exact execIrqtake_keeps_inv hi h
  | seq => exact execSeq_keeps_inv hi h

/-- Settles O50: the turn and the presentation are inputs, which the invariants do not read, and the instruction that runs keeps
them. -/
theorem everyStepKeepsTheInvariants : Obligations.EveryStepKeepsTheInvariants := by
  intro s t hi h
  obtain ⟨-, -, ⟨rfl, -⟩ | ⟨rfl, -⟩ | ⟨i, hw, -, -, -, h⟩ | ⟨w, i, hw, -, -, h⟩⟩ := step_next h
  · exact hi
  · exact hi.of_unread
  · exact exec_keeps_inv hi.of_unread hw h
  · exact exec_keeps_inv hi.of_unread hw h

end Sys2Proof.Machine
end

section
/-! SUPPORT. What a step leaves alone: the parameters; the fault code, from a state that meets the invariants; and everything, where
an agent is not enabled. -/

namespace Sys2Proof.Machine

variable {s t : State}

/-! ## The parameters -/

theorem phaseD2_par (h : phaseD2 s = .next t) : t.par = s.par := by
  obtain ⟨_, -, -, h⟩ | ⟨-, rfl⟩ := withChannelCursor_next h
  · cases h; rfl
  · rfl

theorem seqPhase_par (h : seqPhase s = .next t) : t.par = s.par := by
  obtain ⟨-, rfl⟩ | ⟨-, h⟩ | ⟨-, h⟩ | ⟨-, h⟩ | ⟨-, h⟩ | ⟨-, h⟩ | ⟨-, h⟩ | ⟨-, h⟩ | ⟨-, h⟩ | ⟨-, h⟩ | ⟨-, h⟩ :=
    seqPhase_next h
  · rfl
  · obtain ⟨-, rfl | ⟨-, -, rfl⟩⟩ := phaseS1_next h <;> rfl
  · obtain ⟨-, rfl⟩ := phaseS2_next h; rfl
  · obtain rfl := phaseS3_next h; rfl
  · obtain rfl := phaseS4_next h; rfl
  · obtain ⟨-, rfl⟩ | ⟨-, rfl⟩ := phaseS5_next h <;> rfl
  · obtain ⟨-, rfl⟩ := phaseS6_next h; rfl
  · obtain ⟨-, rfl⟩ | ⟨-, -, -, rfl⟩ | ⟨-, -, -, rfl⟩ | ⟨-, -, rfl⟩ := phaseD1_next h <;> rfl
  · exact phaseD2_par h
  · obtain ⟨-, rfl⟩ | ⟨-, rfl⟩ | ⟨-, rfl⟩ := phaseD3_next h <;> rfl
  · obtain ⟨-, -, -, rfl⟩ | ⟨-, -, rfl⟩ | ⟨-, -, -, rfl⟩ | ⟨-, -, -, rfl⟩ | ⟨-, -, -, rfl⟩ | ⟨-, -, -, rfl⟩ :=
      phaseD4_next h <;> rfl

/-- No instruction changes the parameters (rule R7). -/
theorem exec_par {i : Instr} (h : exec i s = .next t) : t.par = s.par := by
  cases i with
  | init => obtain ⟨-, ⟨-, -, rfl⟩ | ⟨-, rfl⟩⟩ := execInit_next h <;> rfl
  | submit n ps => obtain ⟨-, ⟨-, -, rfl⟩ | ⟨-, -, rfl⟩ | ⟨-, rfl⟩⟩ := execSubmit_next h <;> rfl
  | drain => obtain ⟨-, ⟨-, -, rfl⟩ | ⟨-, -, rfl⟩ | ⟨-, rfl⟩⟩ := execDrain_next h <;> rfl
  | csenter => obtain ⟨-, ⟨-, rfl⟩ | ⟨-, rfl⟩⟩ := execCsenter_next h <;> rfl
  | csexit m => obtain ⟨-, ⟨-, rfl⟩ | ⟨-, rfl⟩⟩ := execCsexit_next h <;> rfl
  | rdreg r => obtain ⟨-, ⟨-, -, rfl⟩ | ⟨-, rfl⟩⟩ := execRdreg_next h <;> rfl
  | rxbyte b => obtain ⟨-, ⟨-, -, rfl⟩ | ⟨-, rfl⟩⟩ := execRxbyte_next h <;> rfl
  | rxstart => obtain ⟨-, ⟨-, -, rfl⟩ | ⟨-, rfl⟩⟩ := execRxstart_next h <;> rfl
  | txsend => obtain ⟨-, ⟨-, -, -, rfl⟩ | ⟨-, -, rfl⟩ | ⟨-, rfl⟩⟩ := execTxsend_next h <;> rfl
  | txdone => obtain ⟨-, ⟨-, -, rfl⟩ | ⟨-, rfl⟩⟩ := execTxdone_next h <;> rfl
  | irqtake => obtain ⟨-, ⟨-, -, rfl⟩ | ⟨-, rfl⟩⟩ := execIrqtake_next h <;> rfl
  | seq => exact seqPhase_par (execSeq_next h).2

theorem step_par (h : step s = .next t) : t.par = s.par := by
  obtain ⟨-, -, ⟨rfl, -⟩ | ⟨rfl, -⟩ | ⟨i, -, -, -, -, h⟩ | ⟨w, i, -, -, -, h⟩⟩ := step_next h
  · rfl
  · rfl
  · simpa using exec_par h
  · simpa using exec_par h

/-- Settles O8: the step checks rule R7 before anything else, and no instruction writes the parameters. -/
theorem badConfigurationIsRefused : Obligations.BadConfigurationIsRefused := by
  intro s
  exact ⟨fun hbad => if_neg fun hok => hbad ((paramsOk_iff s.par).1 hok), fun _ h => step_par h⟩

/-! ## Faults -/

/-- At D4 the element the run copies next holds a value. -/
theorem Inv.isSome_rxbuf_dptr (hi : Inv s) (hph : s.ph = .d4) (hlt : s.dptr.toNat < s.dend.toNat) :
    (s.rxbuf s.dptr.toNat).isSome = true := by
  have hsnap := hi.rx.snapBound (.inr hph)
  obtain hall | ⟨-, hw, hend⟩ := hi.rx.wrapped
  · have hrun := hi.rx.runEnd hph
    exact hall _ (by rcases hrun with he | he <;> rw [he] at hlt <;> omega)
  · rw [hend hph] at hlt
    exact hi.rx.written _ (hlt.trans_le (hw (.inr hph)).1)

/-- The sequencer takes no fault from a state that meets the invariants. -/
theorem seqPhase_flt (hi : Inv s) (h : seqPhase s = .next t) : t.flt = s.flt := by
  obtain ⟨-, -, hcRx, -, hs, -⟩ := (paramsOk_iff _).1 hi.params
  obtain ⟨-, rfl⟩ | ⟨-, h⟩ | ⟨-, h⟩ | ⟨-, h⟩ | ⟨-, h⟩ | ⟨-, h⟩ | ⟨-, h⟩ | ⟨-, h⟩ | ⟨-, h⟩ | ⟨-, h⟩ | ⟨hph, h⟩ :=
    seqPhase_next h
  · rfl
  · obtain ⟨-, rfl | ⟨-, -, rfl⟩⟩ := phaseS1_next h <;> rfl
  · obtain ⟨-, rfl⟩ := phaseS2_next h; rfl
  · obtain rfl := phaseS3_next h; rfl
  · obtain rfl := phaseS4_next h; rfl
  · obtain ⟨-, rfl⟩ | ⟨-, rfl⟩ := phaseS5_next h <;> rfl
  · obtain ⟨-, rfl⟩ := phaseS6_next h; rfl
  · obtain ⟨-, rfl⟩ | ⟨-, -, -, rfl⟩ | ⟨-, -, h0, -⟩ | ⟨-, -, rfl⟩ := phaseD1_next h
    case inr.inr.inl => omega
    all_goals rfl
  · obtain ⟨-, rfl⟩ | ⟨hge, -⟩ := phaseD2_next hs h
    · rfl
    · exact absurd hi.rx.wcurBound (by omega)
  · obtain ⟨-, rfl⟩ | ⟨-, rfl⟩ | ⟨-, rfl⟩ := phaseD3_next h <;> rfl
  · have hsnap := hi.rx.snapBound (.inr hph)
    obtain ⟨-, _, -, rfl⟩ | ⟨hlt, hnone, -⟩ | ⟨-, -, -, rfl⟩ | ⟨-, -, hge, -⟩ | ⟨-, -, -, rfl⟩ | ⟨-, -, h0, -⟩ :=
      phaseD4_next h
    · rfl
    · have hsome := hi.isSome_rxbuf_dptr hph hlt
      rw [hnone] at hsome; cases hsome
    · rfl
    · omega
    · rfl
    · omega

/-- From a state that meets the invariants the fault code changes only by a SUBMIT or DRAIN before INIT, which records
NotConfigured with its `opc` and changes nothing else (rule R202). -/
theorem exec_flt {i : Instr} (hi : Inv s) (h : exec i s = .next t) : t.flt = s.flt ∨
    s.cfg = false ∧ (i = .drain ∨ ∃ n ps, i = .submit n ps) ∧
      t = { s with flt := .notConfigured, fltInfo := (opcode i).toNat } := by
  cases i with
  | init => obtain ⟨-, ⟨-, -, rfl⟩ | ⟨-, rfl⟩⟩ := execInit_next h <;> exact .inl rfl
  | submit n ps =>
    obtain ⟨-, ⟨-, -, rfl⟩ | ⟨-, hc, rfl⟩ | ⟨-, rfl⟩⟩ := execSubmit_next h
    · exact .inl rfl
    · exact .inr ⟨hc, .inr ⟨n, ps, rfl⟩, rfl⟩
    · exact .inl rfl
  | drain =>
    obtain ⟨-, ⟨-, -, rfl⟩ | ⟨-, hc, rfl⟩ | ⟨-, rfl⟩⟩ := execDrain_next h
    · exact .inl rfl
    · exact .inr ⟨hc, .inl rfl, rfl⟩
    · exact .inl rfl
  | csenter => obtain ⟨-, ⟨-, rfl⟩ | ⟨-, rfl⟩⟩ := execCsenter_next h <;> exact .inl rfl
  | csexit m => obtain ⟨-, ⟨-, rfl⟩ | ⟨-, rfl⟩⟩ := execCsexit_next h <;> exact .inl rfl
  | rdreg r => obtain ⟨-, ⟨-, -, rfl⟩ | ⟨-, rfl⟩⟩ := execRdreg_next h <;> exact .inl rfl
  | rxbyte b => obtain ⟨-, ⟨-, -, rfl⟩ | ⟨-, rfl⟩⟩ := execRxbyte_next h <;> exact .inl rfl
  | rxstart => obtain ⟨-, ⟨-, -, rfl⟩ | ⟨-, rfl⟩⟩ := execRxstart_next h <;> exact .inl rfl
  | txsend =>
    obtain ⟨-, ⟨-, -, -, rfl⟩ | ⟨hen, hnone, -⟩ | ⟨-, rfl⟩⟩ := execTxsend_next h
    · exact .inl rfl
    · obtain ⟨ha, hlt, -⟩ := (canSend_iff s).1 hen
      have hsome := hi.tx.windowFilled ha _ hlt
      rw [hnone] at hsome; cases hsome
    · exact .inl rfl
  | txdone => obtain ⟨-, ⟨-, -, rfl⟩ | ⟨-, rfl⟩⟩ := execTxdone_next h <;> exact .inl rfl
  | irqtake => obtain ⟨-, ⟨-, -, rfl⟩ | ⟨-, rfl⟩⟩ := execIrqtake_next h <;> exact .inl rfl
  | seq => exact .inl (seqPhase_flt hi (execSeq_next h).2)

/-- Settles O48: every other way to a fault contradicts the invariants. -/
theorem onlyNotConfiguredIsReachable : Obligations.OnlyNotConfiguredIsReachable := by
  intro s t i hi hf h hflt
  obtain hsame | ⟨hc, hcmd, rfl⟩ := exec_flt hi h
  · exact absurd (hsame.trans hf) hflt
  · exact ⟨rfl, hc, hcmd, rfl, rfl⟩

/-! ## Holds -/

/-- A command presented while one is in progress holds (rule R185). -/
theorem exec_command_busy {i : Instr} (hr : agentOf i = .req) (hf : s.flt = .noFault) (hph : s.ph ≠ .idle) :
    exec i s = .next s := by
  cases i with
  | init | submit | drain | csenter | csexit | rdreg => exact accept_busy hf hph
  | rxbyte | rxstart | txsend | txdone | irqtake | seq => cases hr

/-- Settles O16: no command has a step while one is in progress. -/
theorem commandsHoldWhileOneIsInProgress : Obligations.CommandsHoldWhileOneIsInProgress :=
  fun _ _ hr hf hph => exec_command_busy hr hf hph

theorem execSeq_hold (hf : s.flt = .noFault) (h : s.ph = .idle ∨ (s.ph = .d1 ∧ s.rcurValid = false ∧ s.rxStarted = false)) :
    execSeq s = .next s := by
  rw [execSeq_noFault hf]
  obtain hph | ⟨hph, hv, hst⟩ := h
  · simp only [seqPhase, hph]
  · simp only [seqPhase, hph, phaseD1, hv, hst, Bool.false_eq_true, if_false]

theorem execTxsend_hold (hf : s.flt = .noFault)
    (h : s.txActive = false ∨ s.txLen.toNat ≤ s.txSent.toNat ∨ (s.par.arbAtomic = true ∧ s.ph = .s5)) :
    execTxsend s = .next s := by
  refine stepWhen_hold hf (Bool.eq_false_iff.2 fun hen => ?_)
  obtain ⟨ha, hlt, hwin⟩ := (canSend_iff s).1 hen
  obtain h | h | h := h
  · rw [h] at ha; cases ha
  · omega
  · exact hwin h

/-- Where its agent is not enabled, an instruction changes nothing (rule R11). -/
theorem exec_hold {i : Instr} (hf : s.flt = .noFault)
    (h : (agentOf i = .req ∧ s.ph ≠ .idle) ∨
      (i = .seq ∧ (s.ph = .idle ∨ (s.ph = .d1 ∧ s.rcurValid = false ∧ s.rxStarted = false))) ∨
      (i = .txsend ∧ (s.txActive = false ∨ s.txLen.toNat ≤ s.txSent.toNat ∨ (s.par.arbAtomic = true ∧ s.ph = .s5))) ∨
      (i = .txdone ∧ (s.txActive = false ∨ s.txSent ≠ s.txLen)) ∨
      (i = .rxstart ∧ (s.cfg = false ∨ s.rxStarted = true)) ∨
      ((∃ b, i = .rxbyte b) ∧ s.rxStarted = false) ∨
      (i = .irqtake ∧ (s.irqPend = false ∨ s.irqMask = true))) : exec i s = .next s := by
  obtain ⟨hr, hph⟩ | ⟨rfl, h⟩ | ⟨rfl, h⟩ | ⟨rfl, h⟩ | ⟨rfl, h⟩ | ⟨⟨b, rfl⟩, h⟩ | ⟨rfl, h⟩ := h
  · exact exec_command_busy hr hf hph
  · exact execSeq_hold hf h
  · exact execTxsend_hold hf h
  · exact stepWhen_hold hf (by rcases h with h | h <;> simp [State.canComplete, h])
  · exact stepWhen_hold hf (by rcases h with h | h <;> simp [h])
  · exact stepWhen_hold hf h
  · exact stepWhen_hold hf (by rcases h with h | h <;> simp [State.irqLine, h])

/-- With legal parameters and no fault, a step takes the next turn. -/
theorem step_eq_takeStep (hp : paramsOk s.par = true) (hf : s.flt = .noFault) : step s = takeStep exec s := by
  rw [step, if_pos hp, unlessFaulted_noFault hf]

theorem takeTurn_of_sched {turn : Turn} {turns : List Turn} (hs : s.sched = turn :: turns) :
    takeTurn s = { s with sched := turns } := by
  rw [takeTurn, hs]; rfl

theorem takeStep_req {run : Instr → State → Result} {turns : List Turn} (hs : s.sched = .req :: turns) :
    takeStep run s = requesterTurn run { s with sched := turns } := by
  rw [← takeTurn_of_sched hs]; simp only [takeStep, hs]

theorem takeStep_label {run : Instr → State → Result} {w : Word} {turns : List Turn} {i : Instr}
    (hs : s.sched = .label w :: turns) (hd : decodeLabel w = .ok i) :
    takeStep run s = run i { s with sched := turns } := by
  rw [← takeTurn_of_sched hs]; simp only [takeStep, hs, labelTurn, hd, runDecoded]

theorem takeStep_nil {run : Instr → State → Result} (hs : s.sched = []) : takeStep run s = .next s := by
  simp only [takeStep, hs]

/-- The requester's turn passes while a command is in progress, and with nothing presented (rule R185). -/
theorem requesterTurn_hold {run : Instr → State → Result} (h : s.ph ≠ .idle ∨ s.port = []) :
    requesterTurn run s = .next s := by
  unfold requesterTurn
  split
  · rfl
  · rename_i c more hport
    exact if_neg (h.resolve_right (by simp [hport]))

/-- Settles O7: an instruction that holds changes nothing, so its turn changes only the schedule. -/
theorem stepHoldsWhereNoAgentIsEnabled : Obligations.StepHoldsWhereNoAgentIsEnabled := by
  intro s hf notEnabled
  refine ⟨fun i hn => exec_hold hf hn, fun hp => ⟨fun turns hs hn => ?_, fun w turns i hs hd hn => ?_, fun hs => ?_⟩⟩
  · rw [step_eq_takeStep hp hf, takeStep_req hs]
    exact requesterTurn_hold hn
  · rw [step_eq_takeStep hp hf, takeStep_label hs hd]
    exact exec_hold hf hn
  · rw [step_eq_takeStep hp hf, takeStep_nil hs]

/-! ## Phase D3 -/

/-- Settles O34, comparison by comparison. -/
theorem phaseD3ChoosesTheRuns : Obligations.PhaseD3ChoosesTheRuns := by
  intro s hp hf hph
  have hseq : exec .seq s = phaseD3 s := by
    show execSeq s = _
    rw [execSeq_noFault hf]
    simp only [seqPhase, hph]
  obtain ⟨-, -, -, hcRx, -⟩ := (paramsOk_iff _).1 hp
  rw [hseq, phaseD3]
  refine ⟨fun heq => ?_, fun hlt => ?_, fun hgt => ⟨len s.par.cRx, len_toNat (by omega), ?_⟩⟩
  · rw [if_pos heq]; rfl
  · rw [if_neg fun heq => by rw [heq] at hlt; exact lt_irrefl _ hlt, if_pos hlt]
  · rw [if_neg fun heq => by rw [heq] at hgt; exact lt_irrefl _ hgt, if_neg (by omega)]

end Sys2Proof.Machine
end

section
/-! SUPPORT. What each agent may write (rule R42): a next state of one of its instructions is the old one but for the elements it
owns; and where memory is stored to (rules R66, R160). -/

namespace Sys2Proof.Machine

variable {s t : State} {i : Instr}

/-! ## What each agent writes -/

/-- A command other than INIT writes the payload latches, the mask, the phase and its response, or takes a fault. -/
theorem exec_req_writes (ha : agentOf i = .req) (hinit : i ≠ .init) (h : exec i s = .next t) :
    t = { s with opN := t.opN, opBytes := t.opBytes, irqMask := t.irqMask, ph := t.ph, obs := t.obs, draws := t.draws
                 flt := t.flt, fltInfo := t.fltInfo } := by
  cases i with
  | init => exact absurd rfl hinit
  | submit n ps => obtain ⟨-, ⟨-, -, rfl⟩ | ⟨-, -, rfl⟩ | ⟨-, rfl⟩⟩ := execSubmit_next h <;> rfl
  | drain => obtain ⟨-, ⟨-, -, rfl⟩ | ⟨-, -, rfl⟩ | ⟨-, rfl⟩⟩ := execDrain_next h <;> rfl
  | csenter => obtain ⟨-, ⟨-, rfl⟩ | ⟨-, rfl⟩⟩ := execCsenter_next h <;> rfl
  | csexit m => obtain ⟨-, ⟨-, rfl⟩ | ⟨-, rfl⟩⟩ := execCsexit_next h <;> rfl
  | rdreg r => obtain ⟨-, ⟨-, -, rfl⟩ | ⟨-, rfl⟩⟩ := execRdreg_next h <;> rfl
  | rxbyte | rxstart | txsend | txdone | irqtake | seq => cases ha

/-- INIT writes both channels' registers, the pending signal, `cfg` and its response. -/
theorem execInit_writes (h : execInit s = .next t) :
    t = { s with txLen := t.txLen, txActive := t.txActive, txSent := t.txSent, rxWcur := t.rxWcur, rxStarted := t.rxStarted
                 rcurValid := t.rcurValid, irqPend := t.irqPend, cfg := t.cfg, obs := t.obs } := by
  obtain ⟨-, ⟨-, -, rfl⟩ | ⟨-, rfl⟩⟩ := execInit_next h <;> rfl

/-- The TX engine writes the TX registers and the pending signal, and sends, or takes a fault; it never starts a transfer and never
takes the signal back. -/
theorem exec_txe_writes (ha : agentOf i = .txe) (h : exec i s = .next t) :
    t = { s with txLen := t.txLen, txActive := t.txActive, txSent := t.txSent, irqPend := t.irqPend, obs := t.obs
                 flt := t.flt, fltInfo := t.fltInfo } ∧
      (t.txActive = true → s.txActive = true) ∧ (s.irqPend = true → t.irqPend = true) := by
  cases i with
  | txsend => obtain ⟨-, ⟨-, -, -, rfl⟩ | ⟨-, -, rfl⟩ | ⟨-, rfl⟩⟩ := execTxsend_next h <;> exact ⟨rfl, id, id⟩
  | txdone =>
    obtain ⟨-, ⟨-, -, rfl⟩ | ⟨-, rfl⟩⟩ := execTxdone_next h
    · exact ⟨rfl, nofun, fun _ => rfl⟩
    · exact ⟨rfl, id, id⟩
  | init | submit | drain | csenter | csexit | rdreg | rxbyte | rxstart | irqtake | seq => cases ha

/-- The RX engine writes memory, the write cursor, `rx_started` and the stream of arrivals. -/
theorem exec_rxe_writes (ha : agentOf i = .rxe) (h : exec i s = .next t) :
    t = { s with mem := t.mem, rxWcur := t.rxWcur, rxStarted := t.rxStarted, obs := t.obs } := by
  cases i with
  | rxbyte b => obtain ⟨-, ⟨-, -, rfl⟩ | ⟨-, rfl⟩⟩ := execRxbyte_next h <;> rfl
  | rxstart => obtain ⟨-, ⟨-, -, rfl⟩ | ⟨-, rfl⟩⟩ := execRxstart_next h <;> rfl
  | init | submit | drain | csenter | csexit | rdreg | txsend | txdone | irqtake | seq => cases ha

/-- The interrupt writes its log and the pending signal, which it never sets. -/
theorem exec_irq_writes (ha : agentOf i = .irq) (h : exec i s = .next t) :
    t = { s with irqPend := t.irqPend, obs := t.obs } ∧ (t.irqPend = true → s.irqPend = true) := by
  cases i with
  | irqtake =>
    obtain ⟨-, ⟨-, -, rfl⟩ | ⟨-, rfl⟩⟩ := execIrqtake_next h
    · exact ⟨rfl, nofun⟩
    · exact ⟨rfl, id⟩
  | init | submit | drain | csenter | csexit | rdreg | rxbyte | rxstart | txsend | txdone | seq => cases ha

/-- What a step of the sequencer may write. -/
def SeqWrites (s t : State) : Prop :=
  t = { s with mem := t.mem, txLen := t.txLen, txActive := t.txActive, txSent := t.txSent, rcur := t.rcur
               rcurValid := t.rcurValid, irqMask := t.irqMask, ph := t.ph, sL := t.sL, csSaved := t.csSaved, snap := t.snap
               dptr := t.dptr, dend := t.dend, dcnt := t.dcnt, obs := t.obs, flt := t.flt, fltInfo := t.fltInfo }

theorem phaseD2_writes (h : phaseD2 s = .next t) : SeqWrites s t ∧ t.mem = s.mem ∧ t.txActive = s.txActive := by
  obtain ⟨_, -, -, h⟩ | ⟨-, rfl⟩ := withChannelCursor_next h
  · cases h; exact ⟨rfl, rfl, rfl⟩
  · exact ⟨rfl, rfl, rfl⟩

/-- The phases of SUBMIT that store a payload, with the TX offset they store it from (rules R122, R126). -/
def State.storesAt (s : State) (off : Nat) : Prop := s.ph = .s2 ∧ off = s.sL.toNat ∨ s.ph = .s6 ∧ off = 0

/-- A sequencer step stores nothing and leaves the transfer as it was, or stores the payload at S2 or S6, where it may start one. -/
theorem seqPhase_writes (h : seqPhase s = .next t) :
    SeqWrites s t ∧ (t.mem = s.mem ∧ t.txActive = s.txActive ∨
      ∃ off, s.storesAt off ∧ s.opBytes.length = s.opN.toNat ∧ t.mem = s.mem.writeRun (txAddr s.par off) s.opBytes ∧
        (s.txActive = true → t.txActive = true)) := by
  obtain ⟨-, rfl⟩ | ⟨-, h⟩ | ⟨hph, h⟩ | ⟨-, h⟩ | ⟨-, h⟩ | ⟨-, h⟩ | ⟨hph, h⟩ | ⟨-, h⟩ | ⟨-, h⟩ | ⟨-, h⟩ | ⟨-, h⟩ :=
    seqPhase_next h
  · exact ⟨rfl, .inl ⟨rfl, rfl⟩⟩
  · obtain ⟨-, rfl | ⟨-, -, rfl⟩⟩ := phaseS1_next h <;> exact ⟨rfl, .inl ⟨rfl, rfl⟩⟩
  · obtain ⟨hl, rfl⟩ := phaseS2_next h
    exact ⟨rfl, .inr ⟨_, .inl ⟨hph, rfl⟩, hl, rfl, id⟩⟩
  · obtain rfl := phaseS3_next h; exact ⟨rfl, .inl ⟨rfl, rfl⟩⟩
  · obtain rfl := phaseS4_next h; exact ⟨rfl, .inl ⟨rfl, rfl⟩⟩
  · obtain ⟨-, rfl⟩ | ⟨-, rfl⟩ := phaseS5_next h <;> exact ⟨rfl, .inl ⟨rfl, rfl⟩⟩
  · obtain ⟨hl, rfl⟩ := phaseS6_next h
    exact ⟨rfl, .inr ⟨_, .inr ⟨hph, rfl⟩, hl, rfl, fun _ => rfl⟩⟩
  · obtain ⟨-, rfl⟩ | ⟨-, -, -, rfl⟩ | ⟨-, -, -, rfl⟩ | ⟨-, -, rfl⟩ := phaseD1_next h <;> exact ⟨rfl, .inl ⟨rfl, rfl⟩⟩
  · exact (phaseD2_writes h).imp id .inl
  · obtain ⟨-, rfl⟩ | ⟨-, rfl⟩ | ⟨-, rfl⟩ := phaseD3_next h <;> exact ⟨rfl, .inl ⟨rfl, rfl⟩⟩
  · obtain ⟨-, -, -, rfl⟩ | ⟨-, -, rfl⟩ | ⟨-, -, -, rfl⟩ | ⟨-, -, -, rfl⟩ | ⟨-, -, -, rfl⟩ | ⟨-, -, -, rfl⟩ :=
      phaseD4_next h <;> exact ⟨rfl, .inl ⟨rfl, rfl⟩⟩

theorem seqPhase_txActive (h : seqPhase s = .next t) (ha : s.txActive = true) : t.txActive = true := by
  obtain ⟨-, ⟨-, heq⟩ | ⟨-, -, -, -, hkeep⟩⟩ := seqPhase_writes h
  · exact heq.trans ha
  · exact hkeep ha

/-! ## Where memory is stored to -/

theorem eq_seq_of_agentOf (ha : agentOf i = .seq) : i = .seq := by
  cases i with
  | seq => rfl
  | init | submit | drain | csenter | csexit | rdreg | rxbyte | rxstart | txsend | txdone | irqtake => cases ha

/-- Only the RX engine and the sequencer store to memory. -/
theorem exec_mem_of_no_store (hrxe : agentOf i ≠ .rxe) (hseq : agentOf i ≠ .seq) (h : exec i s = .next t) :
    t.mem = s.mem := by
  cases ha : agentOf i with
  | req =>
    by_cases hinit : i = .init
    · subst hinit; rw [execInit_writes h]
    · rw [exec_req_writes ha hinit h]
  | txe => rw [(exec_txe_writes ha h).1]
  | irq => rw [(exec_irq_writes ha h).1]
  | rxe => exact absurd ha hrxe
  | seq => exact absurd ha hseq

/-- Memory after an instruction: as it was, or a byte stored by RXBYTE at the write cursor, or a payload stored by SEQ at S2 or
S6. -/
theorem exec_mem (h : exec i s = .next t) : t.mem = s.mem ∨
    (∃ b, i = .rxbyte b ∧ t.mem = s.mem.write (rxAddr s.par s.rxWcur.toNat) b) ∨
    (i = .seq ∧ ∃ off, s.storesAt off ∧ s.opBytes.length = s.opN.toNat ∧
      t.mem = s.mem.writeRun (txAddr s.par off) s.opBytes) := by
  cases i with
  | rxbyte b =>
    obtain ⟨-, ⟨-, -, rfl⟩ | ⟨-, rfl⟩⟩ := execRxbyte_next h
    · exact .inr (.inl ⟨b, rfl, rfl⟩)
    · exact .inl rfl
  | rxstart => obtain ⟨-, ⟨-, -, rfl⟩ | ⟨-, rfl⟩⟩ := execRxstart_next h <;> exact .inl rfl
  | seq =>
    obtain ⟨-, ⟨hm, -⟩ | ⟨off, hoff, hl, hm, -⟩⟩ := seqPhase_writes (execSeq_next h).2
    · exact .inl hm
    · exact .inr (.inr ⟨rfl, off, hoff, hl, hm⟩)
  | init | submit | drain | csenter | csexit | rdreg | txsend | txdone | irqtake =>
    exact .inl (exec_mem_of_no_store (by simp [agentOf]) (by simp [agentOf]) h)

/-- Settles O54, from the three things an instruction can do to memory. -/
theorem storesGoOnlyWhereTheRulesSay : Obligations.StoresGoOnlyWhereTheRulesSay := by
  intro i s t h
  obtain hm | ⟨b, rfl, hm⟩ | ⟨rfl, off, hoff, hl, hm⟩ := exec_mem h
  · simp [hm]
  · refine ⟨fun _ hne => absurd rfl (hne b), fun a _ _ ha => ?_, nofun, nofun, nofun⟩
    rw [hm]; exact read_write_other _ _ ha
  · have hread : ∀ a, a < txAddr s.par off ∨ txAddr s.par off + s.opN.toNat ≤ a → t.mem.read a = s.mem.read a := by
      intro a ha
      rw [hm]; exact read_writeRun_outside _ _ (by rwa [hl])
    obtain ⟨hph, rfl⟩ | ⟨hph, rfl⟩ := hoff
    · simpa [hph] using hread
    · simpa [hph] using hread

/-! ## Who may write what -/

/-- From a state that meets the invariants only the sequencer writes TX bytes. -/
theorem exec_txbuf (hi : Inv s) (h : exec i s = .next t) (ha : agentOf i ≠ .seq) {k : Nat} (hk : k < s.par.cTx) :
    t.txbuf k = s.txbuf k := by
  obtain hm | ⟨b, -, hm⟩ | ⟨rfl, -⟩ := exec_mem h
  · rw [txbuf_congr (exec_par h) hm]
  · rw [txbuf_congr (s := storeByte (rxAddr s.par s.rxWcur.toNat) b s) (exec_par (s := s) h) hm]
    exact txbuf_storeByte_rx hi.params b hi.rx.wcurBound hk
  · exact absurd rfl ha

/-- A payload stored by S2 or S6 stays inside TxBuffer. -/
theorem Inv.storesAt_fits (hi : Inv s) {off : Nat} (h : s.storesAt off) : off + s.opN.toNat ≤ s.par.cTx := by
  obtain ⟨hph, rfl⟩ | ⟨hph, rfl⟩ := h
  · exact hi.submit.fits (.inl hph)
  · have := (hi.submit.count (by simp [hph])).2
    omega

/-- From a state that meets the invariants only the RX engine writes RX bytes. -/
theorem exec_rxbuf (hi : Inv s) (h : exec i s = .next t) (ha : agentOf i ≠ .rxe) {k : Nat} (hk : k < s.par.cRx) :
    t.rxbuf k = s.rxbuf k := by
  obtain hm | ⟨b, rfl, -⟩ | ⟨-, off, hoff, hl, hm⟩ := exec_mem h
  · rw [rxbuf_congr (exec_par h) hm]
  · exact absurd rfl ha
  · rw [rxbuf_congr (s := storeRun (txAddr s.par off) s.opBytes s) (exec_par (s := s) h) hm]
    exact rxbuf_storeRun hi.params (by rw [hl]; exact hi.storesAt_fits hoff) hk

/-- Settles O53: the bytes of the two buffers by where memory is stored to, the registers agent by agent. -/
theorem agentsWriteOnlyWhatTheyOwn : Obligations.AgentsWriteOnlyWhatTheyOwn := by
  intro i s t hi h
  refine ⟨fun ha _ hk => exec_txbuf hi h ha hk, fun ha _ hk => exec_rxbuf hi h ha hk, ?_⟩
  cases ha : agentOf i with
  | req =>
    by_cases hinit : i = .init
    · subst hinit; rw [execInit_writes h]; simp
    · rw [exec_req_writes ha hinit h]; simp
  | seq =>
    obtain rfl := eq_seq_of_agentOf ha
    obtain ⟨hw, -⟩ := seqPhase_writes (execSeq_next h).2
    have hact := seqPhase_txActive (execSeq_next h).2
    rw [hw]; simpa using hact
  | txe =>
    obtain ⟨hw, hact, hpend⟩ := exec_txe_writes ha h
    rw [hw]; simpa using ⟨hact, hpend⟩
  | rxe => rw [exec_rxe_writes ha h]; simp
  | irq =>
    obtain ⟨hw, hpend⟩ := exec_irq_writes ha h
    rw [hw]; simpa using hpend

end Sys2Proof.Machine
end

section
/-! SUPPORT. The RX write cursor under RXBYTE and the unread count under a lap; the status registers; a stopped machine; and the
state after reset. -/

namespace Sys2Proof.Machine

variable {s : State}

/-! ## Cursors and RXBYTE -/

/-- Advancing by one goes to the next offset, or from the last one to the origin (rule R151). -/
theorem len_advance_one_toNat {p : Params} {w : Nat} (hp : paramsOk p = true) (hw : w < p.cRx) :
    (len (advance p w 1)).toNat = if w + 1 = p.cRx then 0 else w + 1 := by
  obtain ⟨-, -, -, hcRx, -⟩ := (paramsOk_iff p).1 hp
  rw [advance]
  split
  · rename_i hlast; rw [hlast, Nat.mod_self]; rfl
  · rw [Nat.mod_eq_of_lt (by omega)]; exact len_toNat (by omega)

/-- RXBYTE on a started channel stores at the write cursor's element and advances the cursor (rule R160). -/
theorem execRxbyte_started {b : Byte} (hp : paramsOk s.par = true) (hf : s.flt = .noFault) (hw : s.rxWcur.toNat < s.par.cRx)
    (hst : s.rxStarted = true) : execRxbyte b s = .next (emitWireIn b
      { storeByte (rxAddr s.par s.rxWcur.toNat) b s with rxWcur := len (advance s.par s.rxWcur.toNat 1) }) := by
  obtain ⟨-, -, -, -, hs, -⟩ := (paramsOk_iff s.par).1 hp
  rw [execRxbyte, stepWhen_enabled hf hst, memWrite_element (isElement_rxAddr hs hw)]
  rfl

/-- Settles O39: the laws of a store at one address, and the cursor's advance by one. -/
theorem rxbyteWritesAndAdvances : Obligations.RxbyteWritesAndAdvances := by
  intro s b hp hf hw
  refine ⟨fun hst => ⟨_, execRxbyte_started hp hf hw hst, rfl, len_advance_one_toNat hp hw, ?_, fun a ha => ?_⟩,
    fun hst => stepWhen_hold hf hst⟩
  · exact read_write_same _ _ _
  · exact read_write_other _ _ ha

/-- From a cursor advanced by `k` the unread count is `k` modulo `C_rx`: whether the advance wrapped or not (rules R151, R152). -/
theorem unread_advance {p : Params} {r : Nat} (k : Nat) (hr : r < p.cRx) : unread p (advance p r k) r = k % p.cRx := by
  have hk : k % p.cRx < p.cRx := Nat.mod_lt _ (by omega)
  have hadv : advance p r k = (r + k % p.cRx) % p.cRx := by simp [advance]
  rw [hadv]
  rcases Nat.lt_or_ge (r + k % p.cRx) p.cRx with hlt | hge
  · rw [Nat.mod_eq_of_lt hlt, unread, if_pos (by omega)]; omega
  · rw [Nat.mod_eq_sub_mod hge, Nat.mod_eq_of_lt (by omega), unread, if_neg (by omega)]; omega

/-- Settles O43: the two boundary counts are the count modulo `C_rx` at `k < C_rx` and at `k = C_rx`. -/
theorem lapMakesTheCountAmbiguous : Obligations.LapMakesTheCountAmbiguous := by
  intro p r k _ hr
  refine ⟨unread_advance k hr, fun hk => ?_, ?_⟩
  · rw [unread_advance k hr, Nat.mod_eq_of_lt (by omega)]
  · rw [unread_advance p.cRx hr, Nat.mod_self]

/-! ## The status registers -/

theorem execRdreg_idle (r : StatusReg) (hf : s.flt = .noFault) (hph : s.ph = .idle) :
    execRdreg r s = .next (respond 0 (s.statusReg r) (spendDraw r s)) := accept_idle hf hph

/-- Settles O14: the value is the register's view of the state, register by register. -/
theorem rdregAnswersTheRegister : Obligations.RdregAnswersTheRegister := by
  intro s r hf hph
  refine ⟨s.statusReg r, ?_, ?_⟩
  · show execRdreg r s = _
    rw [execRdreg_idle r hf hph, spendDraw_eq]; rfl
  · refine ⟨?_, ?_, ?_, ?_, ?_, ?_, ?_⟩ <;> rintro rfl
    · rfl
    · exact zext32_toNat _
    · rfl
    · intro hv; exact if_pos hv
    · intro hv; exact if_neg (by simp [hv])
    · rfl
    · rfl

/-- Settles O15: STATUS is its six flags appended below zeros, so a bit is read off by where the parts end. -/
theorem statusBits : Obligations.StatusBits := by
  intro s
  simp only [State.statusWord, BitVec.getLsbD_append]
  refine ⟨by simp, by simp, by simp, by simp, by simp, by simp, fun k hk => ?_⟩
  simp (disch := omega) [if_neg]

/-! ## A stopped machine -/

/-- Whatever it would have done, a machine with a fault recorded answers that fault, with its info (rule R202). -/
theorem unlessFaulted_recorded (h : s.flt ≠ .noFault) : ∃ r, (∀ k, unlessFaulted s k = .fault r) ∧
    (s.flt = .notConfigured → r = .notConfigured s.fltInfo) ∧ (s.flt = .cursorInvalid → r = .cursorInvalid s.fltInfo) ∧
    (s.flt = .uninitRead → r = .uninitRead s.fltInfo) := by
  cases hf : s.flt with
  | noFault => exact absurd hf h
  | notConfigured => exact ⟨_, fun k => by simp only [unlessFaulted, hf], fun _ => rfl, nofun, nofun⟩
  | cursorInvalid => exact ⟨_, fun k => by simp only [unlessFaulted, hf], nofun, fun _ => rfl, nofun⟩
  | uninitRead => exact ⟨_, fun k => by simp only [unlessFaulted, hf], nofun, nofun, fun _ => rfl⟩

/-- Every instruction asks first whether a fault is recorded. -/
theorem exec_eq_unlessFaulted (i : Instr) (s : State) : ∃ k, exec i s = unlessFaulted s k := by
  cases i with
  | init | submit | drain | csenter | csexit | rdreg => exact ⟨_, rfl⟩
  | rxbyte | rxstart | txsend | txdone | irqtake => exact ⟨_, rfl⟩
  | seq => exact ⟨_, rfl⟩

/-- Settles O46: every instruction, and with legal parameters every step, asks first whether a fault is recorded. -/
theorem faultStopsEveryAgent : Obligations.FaultStopsEveryAgent := by
  intro s h
  obtain ⟨r, hr, hinfo⟩ := unlessFaulted_recorded h
  refine ⟨r, fun i => ?_, fun hp => ?_, hinfo⟩
  · obtain ⟨k, hk⟩ := exec_eq_unlessFaulted i s
    rw [hk, hr]
  · rw [step, if_pos hp, hr]

/-! ## Reset -/

theorem Inv.resetWith {p : Params} (hp : paramsOk p = true) : Inv (State.resetWith p) := by
  obtain ⟨-, -, hcRx, -⟩ := (paramsOk_iff p).1 hp
  exact {
    params := hp
    memWf := .nil
    memMapped := nofun
    legal := rfl
    busyCfg := fun h => absurd rfl h
    tx := ⟨Nat.zero_le _, nofun, nofun, fun _ _ _ => rfl, fun _ => rfl, nofun⟩
    submit := .of_not_inSubmit rfl
    rx := {
      rcurBound := nofun
      wcurBound := show 0 < p.cRx by omega
      validStarted := nofun
      startedCfg := nofun
      drainValid := nofun
      snapBound := nofun
      runEnd := nofun
      runPtr := nofun
      runCount := nofun
      written := nofun
      wrapped := .inr ⟨nofun, nofun, nofun⟩ } }

theorem TxAccount.resetWith (p : Params) : TxAccount (State.resetWith p) := ⟨nofun, fun _ => rfl, nofun⟩

/-- Nothing has arrived at reset, and nothing was returned. -/
theorem RxAccount.resetWith (p : Params) : RxAccount (State.resetWith p) where
  wcur := (Nat.zero_mod _).symm
  inOrder := rfl
  drainedLe := le_rfl
  notStarted := fun _ => rfl
  notValid := fun _ => ⟨rfl, rfl⟩
  rcur := nofun
  notCopying := fun _ => rfl
  count := nofun
  lastRun := nofun
  tailRun := nofun
  snapshot := nofun
  contents := nofun

theorem noLap_resetWith {p : Params} (hp : paramsOk p = true) : (State.resetWith p).noLap = true := by
  obtain ⟨-, -, hcRx, -⟩ := (paramsOk_iff p).1 hp
  exact decide_eq_true (show 0 < 0 + p.cRx by omega)

/-- Settles O51, part by part; `State.reset` is the reset state of the vectors' parameters. -/
theorem resetMeetsTheInvariants : Obligations.ResetMeetsTheInvariants :=
  fun p hp => ⟨.resetWith hp, .resetWith p, .resetWith p, noLap_resetWith hp, .resetWith (by decide)⟩

/-- Settles O52: every element stands in the reset state's definition. -/
theorem resetValues : Obligations.ResetValues :=
  fun _ => ⟨_, rfl, rfl, fun _ => rfl, rfl, rfl, rfl, rfl, rfl, rfl, rfl, rfl, rfl, rfl, rfl, rfl, rfl, rfl, rfl, rfl⟩

end Sys2Proof.Machine
end

section
/-! SUPPORT. The arrival-order account of rule R161: what the streams and `unread` count, and that every instruction keeps the
account. -/

namespace Sys2Proof.Machine

variable {s t : State}

/-! ## What the drain stream counts -/

theorem drained_append (ds es : List DrainItem) : drained (ds ++ es) = drained ds ++ drained es := by
  induction ds with
  | nil => rfl
  | cons d ds ih => cases d <;> simp [drained, ih]

/-- A byte copied is one more of the open DRAIN's. -/
theorem tally_append_byte (ds : List DrainItem) (v : Byte) :
    tally (ds ++ [.byte v]) = ((tally ds).1, (tally ds).2 + 1) := by
  simp [tally, tallyItem]

/-- A boundary hands the open DRAIN's bytes over to those returned. -/
theorem tally_append_close (ds : List DrainItem) : tally (ds ++ [.close]) = ((tally ds).1 + (tally ds).2, 0) := by
  simp [tally, tallyItem]

@[simp] theorem returned_emitDrain (v : Byte) (s : State) : (emitDrain v s).returned = s.returned := by
  simp [State.returned, tally_append_byte]

@[simp] theorem copying_emitDrain (v : Byte) (s : State) : (emitDrain v s).copying = s.copying + 1 := by
  simp [State.copying, tally_append_byte]

@[simp] theorem returned_respondDrain (n : Len) (s : State) : (respondDrain n s).returned = s.returned + s.copying :=
  congrArg Prod.fst (tally_append_close s.obs.drainOut)

@[simp] theorem copying_respondDrain (n : Len) (s : State) : (respondDrain n s).copying = 0 :=
  congrArg Prod.snd (tally_append_close s.obs.drainOut)

/-! ## What a DRAIN will have returned -/

/-- Advancing a cursor by the unread count reaches the write cursor (rules R151, R152). -/
theorem advance_unread {p : Params} {w r : Nat} (hw : w < p.cRx) (hr : r < p.cRx) : advance p r (unread p w r) = w := by
  rw [advance, unread]
  split
  · rw [Nat.add_sub_cancel' ‹_›, Nat.mod_eq_of_lt hw]
  · rw [show r + (p.cRx - r + w) = w + p.cRx by omega, Nat.add_mod_right, Nat.mod_eq_of_lt hw]

/-- The DRAIN in progress ends with the read cursor, a count modulo `C_rx`, at its snapshot. -/
theorem State.target_mod (hsnap : s.snap.toNat < s.par.cRx) : s.target % s.par.cRx = s.snap.toNat := by
  rw [State.target, ← Nat.mod_add_mod]
  exact advance_unread hsnap (Nat.mod_lt _ (by omega))

/-- With fewer than `C_rx` bytes arrived and not returned, the cursors tell how many there are (rule R161). -/
theorem unread_of_noLap {p : Params} {a r : Nat} (hle : r ≤ a) (hlt : a < r + p.cRx) :
    unread p (a % p.cRx) (r % p.cRx) = a - r := by
  have h := unread_advance (p := p) (r := r % p.cRx) (a - r) (Nat.mod_lt _ (by omega))
  rwa [advance, Nat.mod_add_mod, Nat.add_sub_cancel' hle, Nat.mod_eq_of_lt (by omega : a - r < p.cRx)] at h

/-! ## The frame -/

/-- The account reads the RX registers, the bytes of RxBuffer, the streams of arrivals and of bytes drained, and `cfg`; the phase and
DRAIN's working registers only at D3 and D4, and the phase also where a DRAIN leaves D4. -/
theorem RxAccount.frame (ha : RxAccount s) (hp : t.par = s.par := by rfl) (hw : t.rxWcur = s.rxWcur := by rfl)
    (hr : t.rcur = s.rcur := by rfl) (hv : t.rcurValid = s.rcurValid := by rfl)
    (hin : t.obs.wireIn = s.obs.wireIn := by rfl) (hout : t.obs.drainOut = s.obs.drainOut := by rfl)
    (hc : t.cfg = s.cfg := by rfl)
    (hb : ∀ k, s.rxbuf (k % s.par.cRx) = t.rxbuf (k % s.par.cRx) := by exact fun _ => rfl)
    (hd : t.ph = s.ph ∧ t.snap = s.snap ∧ t.dptr = s.dptr ∧ t.dend = s.dend ∧ t.dcnt = s.dcnt ∨
      s.ph ≠ .d4 ∧ t.ph ≠ .d3 ∧ t.ph ≠ .d4 := by exact .inl ⟨rfl, rfl, rfl, rfl, rfl⟩) : RxAccount t := by
  have hret : t.returned = s.returned := by simp only [State.returned, hout]
  have hcpy : t.copying = s.copying := by simp only [State.copying, hout]
  have harr : t.arrived = s.arrived := by simp only [State.arrived, hin]
  have hph : t.ph ≠ .d4 → s.ph ≠ .d4 := by
    obtain ⟨h, -⟩ | ⟨h, -⟩ := hd
    · rw [h]; exact id
    · exact fun _ => h
  have hrun : t.ph = .d3 ∨ t.ph = .d4 →
      t.ph = s.ph ∧ t.snap = s.snap ∧ t.dptr = s.dptr ∧ t.dend = s.dend ∧ t.dcnt = s.dcnt := by
    intro h
    obtain hd | ⟨-, h3, h4⟩ := hd
    · exact hd
    · exact absurd h (by simp [h3, h4])
  exact {
    wcur := by rw [hw, harr, hp]; exact ha.wcur
    inOrder := by rw [hout, hin, hret, hcpy]; exact ha.inOrder
    drainedLe := by rw [hret, hcpy, harr]; exact ha.drainedLe
    notStarted := by rw [hc, harr]; exact ha.notStarted
    notValid := by rw [hv, hret, hcpy]; exact ha.notValid
    rcur := by rw [hv, hr, hret, hp]; exact fun h1 h2 => ha.rcur h1 (hph h2)
    notCopying := by rw [hcpy]; exact fun h1 => ha.notCopying (hph h1)
    count := fun h1 => by
      obtain ⟨hs, -, -, -, hdc⟩ := hrun (.inr h1)
      rw [hcpy, hdc]; exact ha.count (hs ▸ h1)
    lastRun := fun h1 => by
      obtain ⟨hs, hsn, hdp, hde, -⟩ := hrun (.inr h1)
      rw [hsn, hdp, hde, hret, hcpy, hp]; exact ha.lastRun (hs ▸ h1)
    tailRun := fun h1 => by
      obtain ⟨hs, hsn, hdp, hde, -⟩ := hrun (.inr h1)
      rw [hsn, hdp, hde, hret, hcpy, hp]; exact ha.tailRun (hs ▸ h1)
    snapshot := fun h1 => by
      obtain ⟨hs, hsn, -⟩ := hrun h1
      rw [State.target, hsn, hret, hcpy, harr, hp]; exact ha.snapshot (hs ▸ h1)
    contents := by
      rw [hp, harr]
      simp only [hin]
      exact fun k hk hlast => (hb k).symm.trans (ha.contents k hk hlast) }

/-! ## Commands -/

theorem execInit_keeps_rxAccount (ha : RxAccount s) (h : execInit s = .next t) : RxAccount t := by
  obtain ⟨-, ⟨hph, hc, rfl⟩ | ⟨-, rfl⟩⟩ := execInit_next h
  · have hnone : s.arrived = 0 := ha.notStarted hc
    have hle := ha.drainedLe
    exact { ha with
      wcur := by show 0 = s.arrived % _; rw [hnone, Nat.zero_mod]
      notStarted := nofun
      notValid := fun _ => show s.returned = 0 ∧ s.copying = 0 by omega
      rcur := nofun }
  · exact ha

theorem exec_req_keeps_rxAccount {i : Instr} (ha : RxAccount s) (hreq : agentOf i = .req) (h : exec i s = .next t) :
    RxAccount t := by
  cases i with
  | init => exact execInit_keeps_rxAccount ha h
  | submit n ps =>
    obtain ⟨-, ⟨hph, -, rfl⟩ | ⟨-, -, rfl⟩ | ⟨-, rfl⟩⟩ := execSubmit_next h
    · exact ha.frame (hd := .inr (by simp [hph]))
    · exact ha.frame
    · exact ha
  | drain =>
    obtain ⟨-, ⟨hph, -, rfl⟩ | ⟨-, -, rfl⟩ | ⟨-, rfl⟩⟩ := execDrain_next h
    · exact ha.frame (hd := .inr (by simp [hph]))
    · exact ha.frame
    · exact ha
  | csenter => obtain ⟨-, ⟨-, rfl⟩ | ⟨-, rfl⟩⟩ := execCsenter_next h <;> exact ha.frame
  | csexit m => obtain ⟨-, ⟨-, rfl⟩ | ⟨-, rfl⟩⟩ := execCsexit_next h <;> exact ha.frame
  | rdreg r => obtain ⟨-, ⟨-, -, rfl⟩ | ⟨-, rfl⟩⟩ := execRdreg_next h <;> exact ha.frame
  | rxbyte | rxstart | txsend | txdone | irqtake | seq => cases hreq

/-! ## The phases of DRAIN -/

theorem phaseD1_keeps_rxAccount (ha : RxAccount s) (hph : s.ph = .d1) (h : phaseD1 s = .next t) : RxAccount t := by
  obtain ⟨-, rfl⟩ | ⟨hv, -, -, rfl⟩ | ⟨-, -, -, rfl⟩ | ⟨-, -, rfl⟩ := phaseD1_next h
  · exact ha.frame (hd := .inr (by simp [hph]))
  · have hnone : s.returned = 0 := (ha.notValid hv).1
    exact { ha with
      notValid := nofun
      rcur := fun _ _ => by show 0 = s.returned % _; rw [hnone, Nat.zero_mod]
      notCopying := fun _ => ha.notCopying (by simp [hph])
      count := nofun
      lastRun := nofun
      tailRun := nofun
      snapshot := by simp }
  · exact ha.frame
  · exact ha

/-- The snapshot is what has arrived: NoLap lets the cursors tell how much that is. -/
theorem phaseD2_keeps_rxAccount (hi : Inv s) (ha : RxAccount s) (hlap : s.noLap = true) (hph : s.ph = .d2)
    (h : phaseD2 s = .next t) : RxAccount t := by
  obtain ⟨-, -, -, -, hs, -⟩ := (paramsOk_iff _).1 hi.params
  obtain ⟨-, rfl⟩ | ⟨-, rfl⟩ := phaseD2_next hs h
  · have hcpy : s.copying = 0 := ha.notCopying (by simp [hph])
    have hle := ha.drainedLe
    have htarget : s.returned + unread s.par s.rxWcur.toNat (s.returned % s.par.cRx) = s.arrived := by
      rw [ha.wcur, unread_of_noLap (by omega) (of_decide_eq_true hlap)]; omega
    exact { ha with
      rcur := fun hv _ => ha.rcur hv (by simp [hph])
      notCopying := fun _ => hcpy
      count := nofun
      lastRun := nofun
      tailRun := nofun
      snapshot := fun _ => ⟨hle.trans htarget.ge, htarget.le⟩ }
  · exact ha.frame

/-- The step that answers a DRAIN counts what it copied as returned, and leaves the read cursor at that count modulo `C_rx`. -/
theorem RxAccount.of_drained {r c n : Len} (ha : RxAccount s) (hv : s.rcurValid = true)
    (hr : r.toNat = (s.returned + s.copying) % s.par.cRx) :
    RxAccount (respondDrain n { s with rcur := r, dcnt := c, ph := .idle }) where
  wcur := ha.wcur
  inOrder := by
    rw [returned_respondDrain, copying_respondDrain]
    exact (drained_append _ _).trans ((List.append_nil _).trans ha.inOrder)
  drainedLe := by rw [returned_respondDrain, copying_respondDrain]; exact ha.drainedLe
  notStarted := ha.notStarted
  notValid := fun hnv => absurd (hv.symm.trans hnv) nofun
  rcur := fun _ _ => by rw [returned_respondDrain]; exact hr
  notCopying := fun _ => copying_respondDrain _ _
  count := nofun
  lastRun := nofun
  tailRun := nofun
  snapshot := nofun
  contents := ha.contents

theorem phaseD3_keeps_rxAccount (hi : Inv s) (ha : RxAccount s) (hph : s.ph = .d3) (h : phaseD3 s = .next t) :
    RxAccount t := by
  have hv := hi.rx.drainValid (.inr (.inl hph))
  have hrcur := ha.rcur hv (by simp [hph])
  have hcpy : s.copying = 0 := ha.notCopying (by simp [hph])
  have hsnap := hi.rx.snapBound (.inl hph)
  obtain ⟨-, -, -, hcRx, -⟩ := (paramsOk_iff _).1 hi.params
  have hlen : (len s.par.cRx).toNat = s.par.cRx := len_toNat (by omega)
  obtain ⟨-, rfl⟩ | ⟨-, rfl⟩ | ⟨hgt, rfl⟩ := phaseD3_next h
  · exact ha.of_drained hv (by rw [hcpy]; exact hrcur)
  · exact { ha with
      rcur := fun _ hne => absurd rfl hne
      notCopying := fun _ => hcpy
      count := fun _ => hcpy
      lastRun := fun _ _ => by show s.rcur.toNat = (s.returned + s.copying) % _; rw [hcpy]; exact hrcur
      tailRun := fun _ hne => absurd rfl hne
      snapshot := fun _ => ha.snapshot (.inl hph) }
  · have hne : len s.par.cRx ≠ s.snap := fun he => by rw [← he, hlen] at hsnap; exact lt_irrefl _ hsnap
    exact { ha with
      rcur := fun _ hne => absurd rfl hne
      notCopying := fun _ => hcpy
      count := fun _ => hcpy
      lastRun := fun _ he => absurd he hne
      tailRun := fun _ _ =>
        show s.rcur.toNat = s.returned % s.par.cRx + s.copying ∧ s.snap.toNat < s.returned % s.par.cRx by omega
      snapshot := fun _ => ha.snapshot (.inl hph) }

/-- Inside either run the copy stands at the next arrival's offset. -/
theorem RxAccount.dptr_mod (ha : RxAccount s) (hph : s.ph = .d4) (hlt : s.dptr.toNat < s.par.cRx) :
    s.dptr.toNat = (s.returned + s.copying) % s.par.cRx := by
  by_cases he : s.dend = s.snap
  · exact ha.lastRun hph he
  · have hdptr := (ha.tailRun hph he).1
    rw [← Nat.mod_add_mod, ← hdptr, Nat.mod_eq_of_lt hlt]

/-- Inside either run the DRAIN has still to copy. -/
theorem RxAccount.copying_lt_target (hi : Inv s) (ha : RxAccount s) (hph : s.ph = .d4) (hlt : s.dptr.toNat < s.dend.toNat) :
    s.returned + s.copying < s.target := by
  have hsnap := hi.rx.snapBound (.inr hph)
  by_cases he : s.dend = s.snap
  · refine lt_of_le_of_ne (ha.snapshot (.inr hph)).1 fun heq => ?_
    have hdptr := ha.lastRun hph he
    rw [heq, State.target_mod hsnap, ← he] at hdptr
    omega
  · obtain ⟨hdptr, hwrap⟩ := ha.tailRun hph he
    have hend := (hi.rx.runEnd hph).resolve_left he
    rw [State.target, unread, if_neg (by omega)]
    omega

/-- One arrival more is copied, the next one; the copy moves on from its offset. -/
theorem RxAccount.of_copied {v : Byte} {p c : Len} (hi : Inv s) (ha : RxAccount s) (hph : s.ph = .d4)
    (hlt : s.dptr.toNat < s.dend.toNat) (hv : s.obs.wireIn[s.returned + s.copying]? = some v)
    (hp : p.toNat = s.dptr.toNat + 1) (hc : c.toNat = s.dcnt.toNat + 1) :
    RxAccount (emitDrain v { s with dptr := p, dcnt := c }) := by
  have hsnap := hi.rx.snapBound (.inr hph)
  have hmore := ha.copying_lt_target hi hph hlt
  obtain ⟨-, harr⟩ := ha.snapshot (.inr hph)
  exact {
    wcur := ha.wcur
    inOrder := by
      rw [returned_emitDrain, copying_emitDrain]
      refine (drained_append _ _).trans ?_
      show drained s.obs.drainOut ++ [v] = s.obs.wireIn.take (s.returned + s.copying + 1)
      rw [List.take_add_one, hv, ha.inOrder]
      rfl
    drainedLe := by rw [returned_emitDrain, copying_emitDrain]; exact hmore.trans_le harr
    notStarted := ha.notStarted
    notValid := fun hnv => absurd ((hi.rx.drainValid (.inr (.inr hph))).symm.trans hnv) nofun
    rcur := fun _ hne => absurd hph hne
    notCopying := fun hne => absurd hph hne
    count := fun _ => by rw [copying_emitDrain]; exact (congrArg (· + 1) (ha.count hph)).trans hc.symm
    lastRun := fun _ he => by
      have hdptr := ha.lastRun hph he
      have hroom : s.dptr.toNat + 1 < s.par.cRx := by rw [show s.dend = s.snap from he] at hlt; omega
      rw [returned_emitDrain, copying_emitDrain]
      show p.toNat = (s.returned + s.copying + 1) % s.par.cRx
      rw [← Nat.mod_add_mod, ← hdptr, Nat.mod_eq_of_lt hroom, hp]
    tailRun := fun _ he => by
      obtain ⟨hdptr, hwrap⟩ := ha.tailRun hph he
      rw [returned_emitDrain, copying_emitDrain]
      show p.toNat = s.returned % s.par.cRx + (s.copying + 1) ∧ s.snap.toNat < s.returned % s.par.cRx
      omega
    snapshot := fun _ => by
      rw [State.target, returned_emitDrain, copying_emitDrain]
      exact ⟨hmore, harr⟩
    contents := ha.contents }

/-- At the end of the tail run the copy goes on from the origin. -/
theorem RxAccount.of_wrapped {r : Len} (hi : Inv s) (ha : RxAccount s) (hph : s.ph = .d4)
    (hge : s.dend.toNat ≤ s.dptr.toNat) (hne : s.dend ≠ s.snap) :
    RxAccount { s with rcur := r, dptr := 0, dend := s.snap } := by
  have hptr := hi.rx.runPtr hph
  have hend := (hi.rx.runEnd hph).resolve_left hne
  have hdptr := (ha.tailRun hph hne).1
  exact { ha with
    rcur := fun _ h4 => absurd hph h4
    lastRun := fun _ _ => by
      show 0 = (s.returned + s.copying) % s.par.cRx
      rw [← Nat.mod_add_mod, show s.returned % s.par.cRx + s.copying = s.par.cRx by omega, Nat.mod_self]
    tailRun := fun _ h => absurd rfl h
    snapshot := fun _ => ha.snapshot (.inr hph) }

/-- The byte at the copy is the next that arrived: NoLap keeps it in the buffer. -/
theorem RxAccount.wireIn_next (hi : Inv s) (ha : RxAccount s) (hlap : s.noLap = true) (hph : s.ph = .d4)
    (hlt : s.dptr.toNat < s.dend.toNat) : s.obs.wireIn[s.returned + s.copying]? = s.rxbuf s.dptr.toNat := by
  have hsnap := hi.rx.snapBound (.inr hph)
  have hend : s.dend.toNat ≤ s.par.cRx := by rcases hi.rx.runEnd hph with he | he <;> rw [he]; omega
  have hnolap : s.arrived < s.returned + s.par.cRx := of_decide_eq_true hlap
  have hnext := (ha.copying_lt_target hi hph hlt).trans_le (ha.snapshot (.inr hph)).2
  rw [ha.dptr_mod hph (hlt.trans_le hend), ha.contents _ hnext (by omega)]
  exact List.getElem?_eq_getElem hnext

theorem phaseD4_keeps_rxAccount (hi : Inv s) (ha : RxAccount s) (hlap : s.noLap = true) (hph : s.ph = .d4)
    (h : phaseD4 s = .next t) : RxAccount t := by
  have hsnap := hi.rx.snapBound (.inr hph)
  have hcount := hi.rx.runCount hph
  obtain ⟨-, -, -, hcRx, -⟩ := (paramsOk_iff _).1 hi.params
  obtain ⟨hlt, v, hv, rfl⟩ | ⟨-, -, rfl⟩ | ⟨hge, he, -, rfl⟩ | ⟨-, -, -, rfl⟩ | ⟨hge, hne, -, rfl⟩ | ⟨-, -, -, rfl⟩ :=
    phaseD4_next h
  · refine ha.of_copied hi hph hlt ((ha.wireIn_next hi hlap hph hlt).trans hv) (len_toNat ?_) (len_toNat ?_)
    · have := s.dend.isLt; omega
    · omega
  · exact ha.frame
  · refine ha.of_drained (hi.rx.drainValid (.inr (.inr hph))) ?_
    rw [← ha.lastRun hph he, ← he]
    exact le_antisymm hge (hi.rx.runPtr hph)
  · exact ha.frame
  · exact ha.of_wrapped hi hph hge hne
  · exact ha.frame

/-! ## The sequencer -/

/-- The copy of S2 and S6 does not touch RxBuffer. -/
theorem Inv.rxbuf_storePayload (hi : Inv s) {off : Nat} (hoff : s.storesAt off) (hl : s.opBytes.length = s.opN.toNat) (k : Nat) :
    s.rxbuf (k % s.par.cRx) = (storeRun (txAddr s.par off) s.opBytes s).rxbuf (k % s.par.cRx) := by
  have hw := hi.rx.wcurBound
  exact (rxbuf_storeRun hi.params (by rw [hl]; exact hi.storesAt_fits hoff) (Nat.mod_lt _ (by omega))).symm

theorem execSeq_keeps_rxAccount (hi : Inv s) (ha : RxAccount s) (hlap : s.noLap = true) (h : execSeq s = .next t) :
    RxAccount t := by
  obtain ⟨-, h⟩ := execSeq_next h
  obtain ⟨-, rfl⟩ | ⟨hph, h⟩ | ⟨hph, h⟩ | ⟨hph, h⟩ | ⟨hph, h⟩ | ⟨hph, h⟩ | ⟨hph, h⟩ | ⟨hph, h⟩ | ⟨hph, h⟩ | ⟨hph, h⟩ |
    ⟨hph, h⟩ := seqPhase_next h
  · exact ha
  · obtain ⟨-, rfl | ⟨-, -, rfl⟩⟩ := phaseS1_next h
    · exact ha.frame (hd := .inr (by simp [hph, respondCapacityExceeded]))
    · exact ha.frame (hd := .inr (by simp [hph]))
  · obtain ⟨hl, rfl⟩ := phaseS2_next h
    exact ha.frame (hb := hi.rxbuf_storePayload (.inl ⟨hph, rfl⟩) hl) (hd := .inr (by simp [hph]))
  · obtain rfl := phaseS3_next h
    exact ha.frame (hd := .inr (by simp [hph]))
  · obtain rfl := phaseS4_next h
    exact ha.frame (hd := .inr (by simp [hph]))
  · obtain ⟨-, rfl⟩ | ⟨-, rfl⟩ := phaseS5_next h
    · exact ha.frame (hd := .inr (by simp [hph, respondSubmitted]))
    · exact ha.frame (hd := .inr (by simp [hph]))
  · obtain ⟨hl, rfl⟩ := phaseS6_next h
    exact ha.frame (hb := hi.rxbuf_storePayload (.inr ⟨hph, rfl⟩) hl) (hd := .inr (by simp [hph, respondSubmitted]))
  · exact phaseD1_keeps_rxAccount ha hph h
  · exact phaseD2_keeps_rxAccount hi ha hlap hph h
  · exact phaseD3_keeps_rxAccount hi ha hph h
  · exact phaseD4_keeps_rxAccount hi ha hlap hph h

/-! ## The engines and the interrupt -/

/-- A byte received is read back from the offset of its place in the order of arrival, and the last `C_rx - 1` before it from
theirs. -/
theorem RxAccount.contents_stored (hi : Inv s) (ha : RxAccount s) (b : Byte) {k : Nat}
    (hk : k < (s.obs.wireIn ++ [b]).length) (hlast : s.arrived + 1 ≤ k + s.par.cRx) :
    (storeByte (rxAddr s.par s.rxWcur.toNat) b s).rxbuf (k % s.par.cRx) = some (s.obs.wireIn ++ [b])[k] := by
  obtain ⟨-, -, -, -, hs, -⟩ := (paramsOk_iff _).1 hi.params
  have hlen : k < s.arrived + 1 := by simpa [State.arrived] using hk
  rw [rxbuf_storeByte_rx hs, ha.wcur]
  rcases Nat.lt_succ_iff_lt_or_eq.1 hlen with hold | rfl
  · have hoff : k % s.par.cRx ≠ s.arrived % s.par.cRx := fun heq => by
      have hdvd := Nat.sub_mod_eq_zero_of_mod_eq heq.symm
      rw [Nat.mod_eq_of_lt (by omega)] at hdvd
      omega
    rw [if_neg hoff, ha.contents k hold (by omega), List.getElem_append_left hold]
  · simp [State.arrived]

theorem execRxbyte_keeps_rxAccount {b : Byte} (hi : Inv s) (ha : RxAccount s) (h : execRxbyte b s = .next t) :
    RxAccount t := by
  obtain ⟨-, ⟨hst, -, rfl⟩ | ⟨-, rfl⟩⟩ := execRxbyte_next h
  · have hw := hi.rx.wcurBound
    obtain ⟨-, -, -, hcRx, -⟩ := (paramsOk_iff _).1 hi.params
    have hle := ha.drainedLe
    have hcfg := hi.rx.startedCfg hst
    have harr : (s.obs.wireIn ++ [b]).length = s.arrived + 1 := List.length_append
    exact { ha with
      wcur := by
        show (len ((s.rxWcur.toNat + 1) % s.par.cRx)).toNat = (s.obs.wireIn ++ [b]).length % s.par.cRx
        have := Nat.mod_lt (s.rxWcur.toNat + 1) (show 0 < s.par.cRx by omega)
        rw [len_toNat (by omega), harr, ha.wcur, Nat.mod_add_mod]
      inOrder := ha.inOrder.trans (List.take_append_of_le_length hle).symm
      drainedLe := hle.trans (by show s.arrived ≤ (s.obs.wireIn ++ [b]).length; omega)
      notStarted := fun hc => absurd (hcfg.symm.trans hc) nofun
      snapshot := fun hd => by
        obtain ⟨h1, h2⟩ := ha.snapshot hd
        exact ⟨h1, h2.trans (by show s.arrived ≤ (s.obs.wireIn ++ [b]).length; omega)⟩
      contents := fun k hk hlast => ha.contents_stored hi b hk (harr ▸ hlast) }
  · exact ha

/-- Every instruction keeps the account under NoLap. -/
theorem exec_keeps_rxAccount {i : Instr} (hi : Inv s) (ha : RxAccount s) (hlap : s.noLap = true) (h : exec i s = .next t) :
    RxAccount t := by
  cases i with
  | init | submit | drain | csenter | csexit | rdreg => exact exec_req_keeps_rxAccount ha rfl h
  | rxbyte b => exact execRxbyte_keeps_rxAccount hi ha h
  | rxstart => obtain ⟨-, ⟨-, -, rfl⟩ | ⟨-, rfl⟩⟩ := execRxstart_next h <;> exact ha.frame
  | txsend => obtain ⟨-, ⟨-, -, -, rfl⟩ | ⟨-, -, rfl⟩ | ⟨-, rfl⟩⟩ := execTxsend_next h <;> exact ha.frame
  | txdone => obtain ⟨-, ⟨-, -, rfl⟩ | ⟨-, rfl⟩⟩ := execTxdone_next h <;> exact ha.frame
  | irqtake => obtain ⟨-, ⟨-, -, rfl⟩ | ⟨-, rfl⟩⟩ := execIrqtake_next h <;> exact ha.frame
  | seq => exact execSeq_keeps_rxAccount hi ha hlap h

/-- Settles O40: the turn and the presentation are inputs, which neither the invariants nor the account nor NoLap read, and the
instruction that runs keeps the account. -/
theorem everyStepKeepsArrivalOrder : Obligations.EveryStepKeepsArrivalOrder := by
  intro s t hi ha hlap h
  obtain ⟨-, -, ⟨rfl, -⟩ | ⟨rfl, -⟩ | ⟨i, -, -, -, -, h⟩ | ⟨w, i, -, -, -, h⟩⟩ := step_next h
  · exact ha
  · exact ha.frame
  · exact exec_keeps_rxAccount (s := takePresented (takeTurn s)) hi.of_unread ha.frame hlap h
  · exact exec_keeps_rxAccount (s := takeTurn s) hi.of_unread ha.frame hlap h

end Sys2Proof.Machine
end

section
/-! SUPPORT. The validation of cursors and channel addresses (rules R150, R153), and the steps of TXSEND, D2 and D4, case by case. -/

namespace Sys2Proof.Machine

variable {s : State}

/-! ## Cursors and channel addresses -/

theorem rxOff_rxAddr {p : Params} {off : Nat} (hs : 1 ≤ p.stride) (h : off < p.cRx) : rxOff p (rxAddr p off) = some off := by
  obtain ⟨c, hc⟩ := Option.isSome_iff_exists.1 (rxOff_of_lt hs h)
  rw [hc, rxAddr_inj hs (rxOff_some hc).2]

/-- An address that no offset of RxBuffer has is no cursor's (rule R153). -/
theorem rxOff_none {p : Params} {a : Nat} (h : ∀ c < p.cRx, a ≠ rxAddr p c) : rxOff p a = none :=
  Option.eq_none_iff_forall_ne_some.2 fun c hc => h c (rxOff_some hc).1 (rxOff_some hc).2

/-- Settles O44, clause by clause; the buffer end lies above every element. -/
theorem channelAddressesAreValidated : Obligations.ChannelAddressesAreValidated := by
  intro p hp
  obtain ⟨-, -, -, -, hs, -⟩ := (paramsOk_iff p).1 hp
  exact ⟨fun _ => rfl, fun _ hc => rxOff_rxAddr hs hc, fun _ _ h => rxOff_some h, fun _ h => rxOff_none h,
    rxOff_none fun _ hc => (rxAddr_lt hs hc).ne'⟩

theorem withCursor_of_ge {v : Nat} {f : Len → Result} (h : s.par.cRx ≤ v) :
    withCursor v s f = .next { s with flt := .cursorInvalid, fltInfo := v } := by
  simp [withCursor, mkCursor, Nat.not_lt.2 h]

/-- The address of an offset handed on: the offset, where it is a cursor. -/
theorem withChannelCursor_rxAddr {off : Nat} {f : Len → Result} (hs : 1 ≤ s.par.stride) (h : off < s.par.cRx) :
    withChannelCursor (rxAddr s.par off) s f = f (len off) := by
  simp only [withChannelCursor, rxOff_rxAddr hs h, withCursor_of_lt h]

theorem withChannelCursor_of_ge {off : Nat} {f : Len → Result} (hs : 1 ≤ s.par.stride) (h : s.par.cRx ≤ off) :
    withChannelCursor (rxAddr s.par off) s f =
      .next { s with flt := .cursorInvalid, fltInfo := rxAddr s.par off } := by
  have hnone : rxOff s.par (rxAddr s.par off) = none :=
    rxOff_none fun c hc heq => by have := rxAddr_inj hs heq; omega
  simp only [withChannelCursor, hnone, raise_eq]

/-! ## The steps of TXSEND, D2 and D4 -/

/-- Reading an element nothing has written takes the fault UninitRead (rule R68). -/
theorem memRead_unwritten {a : Nat} {f : Byte → Result} (ha : isElement s.par a = true) (hv : s.mem.read a = none) :
    memRead a s f = .next { s with flt := .uninitRead, fltInfo := a } := by
  simp [memRead, ha, hv]

/-- Settles O26: the read of an element with a value, of one without, and the hold. -/
theorem txsendSendsTheNextByte : Obligations.TxsendSendsTheNextByte := by
  intro s hf hlen
  refine ⟨fun hact hlt hwin => ?_, fun h => execTxsend_hold hf h⟩
  have hel : isElement s.par (txAddr s.par s.txSent.toNat) = true := isElement_txAddr (hlt.trans_le hlen)
  have hrun : exec .txsend s = memRead (txAddr s.par s.txSent.toNat) s
      (fun v => .next (emitWireOut v { s with txSent := len (s.txSent.toNat + 1) })) :=
    stepWhen_enabled hf ((canSend_iff s).2 ⟨hact, hlt, hwin⟩)
  rw [hrun]
  refine ⟨fun v hv => ⟨len (s.txSent.toNat + 1), len_toNat ?_, ?_⟩, fun hnone => memRead_unwritten hel hnone⟩
  · have := s.txLen.isLt; omega
  · rw [memRead_value hel hv]; rfl

/-- Settles O33: the write cursor's address gives it back where it is an offset of the buffer. -/
theorem phaseD2TakesTheSnapshot : Obligations.PhaseD2TakesTheSnapshot := by
  intro s hp hf hph
  obtain ⟨-, -, -, -, hs, -⟩ := (paramsOk_iff _).1 hp
  have hseq : exec .seq s = phaseD2 s := (execSeq_noFault hf).trans (by simp only [seqPhase, hph])
  rw [hseq, phaseD2]
  refine ⟨fun hlt => ?_, fun hge => withChannelCursor_of_ge hs hge⟩
  rw [withChannelCursor_rxAddr hs hlt, len_toNat_self]

/-- Settles O35: inside the run by what the element holds, at its end by where the run ends. -/
theorem phaseD4CopiesOrCloses : Obligations.PhaseD4CopiesOrCloses := by
  intro s hp hf hph hend
  obtain ⟨-, -, hpos, hcRx, hs, -⟩ := (paramsOk_iff _).1 hp
  have hseq : exec .seq s = phaseD4 s := (execSeq_noFault hf).trans (by simp only [seqPhase, hph])
  have hel : s.dptr.toNat < s.dend.toNat → isElement s.par (rxAddr s.par s.dptr.toNat) = true :=
    fun hlt => isElement_rxAddr hs (hlt.trans_le hend)
  rw [hseq, phaseD4]
  refine ⟨fun v hlt hcnt hv => ⟨len (s.dptr.toNat + 1), len (s.dcnt.toNat + 1), len_toNat (by omega), len_toNat (by omega), ?_⟩,
    fun hlt hnone => ?_, fun hge he hsnap => ?_, fun hge he hsnap => ?_, fun hge hne => ?_⟩
  · rw [if_pos hlt, memRead_value (hel hlt) hv]; rfl
  · rw [if_pos hlt, memRead_unwritten (hel hlt) hnone]
  · rw [if_neg (by omega), if_pos he, withCursor_of_lt hsnap, len_toNat_self]; rfl
  · rw [if_neg (by omega), if_pos he, withCursor_of_ge hsnap]
  · rw [if_neg (by omega), if_neg hne, withCursor_of_lt (by omega)]; rfl

end Sys2Proof.Machine
end

section
/-! SUPPORT. From a state that meets the invariants and has no fault recorded no step stops with a fault, and from a configured one
none records any. -/

namespace Sys2Proof.Machine

variable {s t : State} {k : Result} {r : Fault}

/-! ## The shared operations -/

theorem stepWhen_ne_fault {en : Bool} (hf : s.flt = .noFault) (hk : en = true → k ≠ .fault r) :
    stepWhen en s k ≠ .fault r := by
  cases en with
  | true => rw [stepWhen_enabled hf rfl]; exact hk rfl
  | false => rw [stepWhen_hold hf rfl]; nofun

theorem accept_ne_fault (hf : s.flt = .noFault) (hk : k ≠ .fault r) : accept s k ≠ .fault r :=
  stepWhen_ne_fault hf fun _ => hk

theorem requireCfg_ne_fault {opc : Nat} (hk : k ≠ .fault r) : requireCfg opc s k ≠ .fault r := by
  unfold requireCfg
  split
  · exact hk
  · nofun

theorem memRead_ne_fault {a : Nat} {f : Byte → Result} (ha : isElement s.par a = true) (hf : ∀ v, f v ≠ .fault r) :
    memRead a s f ≠ .fault r := by
  cases hv : s.mem.read a with
  | some v => rw [memRead_value ha hv]; exact hf v
  | none => rw [memRead_unwritten ha hv]; nofun

theorem withCursor_ne_fault {v : Nat} {f : Len → Result} (hf : ∀ c, f c ≠ .fault r) : withCursor v s f ≠ .fault r := by
  rcases Nat.lt_or_ge v s.par.cRx with hlt | hge
  · rw [withCursor_of_lt hlt]; exact hf _
  · rw [withCursor_of_ge hge]; nofun

theorem withChannelCursor_ne_fault {a : Nat} {f : Len → Result} (hf : ∀ c, f c ≠ .fault r) :
    withChannelCursor a s f ≠ .fault r := by
  unfold withChannelCursor
  split
  · exact withCursor_ne_fault hf
  · nofun

/-! ## The sequencer's phases -/

theorem phaseS1_ne_fault : phaseS1 s ≠ .fault r := by
  unfold phaseS1
  split
  · nofun
  split
  · nofun
  split <;> nofun

/-- At S2 and S6 the payload latched has the latched length and fits the buffer. -/
theorem Inv.copyPayload_ne_fault (hi : Inv s) {off : Nat} {f : State → Result} (hoff : s.storesAt off)
    (hf : ∀ u, f u ≠ .fault r) : copyPayload off s f ≠ .fault r := by
  have hl : s.opBytes.length = s.opN.toNat := hi.submit.payload (by rcases hoff with ⟨hph, -⟩ | ⟨hph, -⟩ <;> rw [hph] <;> rfl)
  rw [copyPayload_fits hl (hi.storesAt_fits hoff)]
  exact hf _

theorem phaseS5_ne_fault : phaseS5 s ≠ .fault r := by
  unfold phaseS5
  split <;> nofun

theorem phaseD1_ne_fault : phaseD1 s ≠ .fault r := by
  unfold phaseD1
  split
  · nofun
  split
  · exact withCursor_ne_fault nofun
  · nofun

theorem phaseD3_ne_fault : phaseD3 s ≠ .fault r := by
  unfold phaseD3
  split
  · nofun
  split <;> nofun

/-- At D4 the element the run copies next lies in the buffer. -/
theorem phaseD4_ne_fault (hi : Inv s) (hph : s.ph = .d4) : phaseD4 s ≠ .fault r := by
  obtain ⟨-, -, -, -, hs, -⟩ := (paramsOk_iff _).1 hi.params
  have hsnap := hi.rx.snapBound (.inr hph)
  have hend : s.dend.toNat ≤ s.par.cRx := by rcases hi.rx.runEnd hph with he | he <;> rw [he]; omega
  unfold phaseD4
  split
  · exact memRead_ne_fault (isElement_rxAddr hs (by omega)) nofun
  split
  · exact withCursor_ne_fault nofun
  · exact withCursor_ne_fault nofun

theorem seqPhase_ne_fault (hi : Inv s) : seqPhase s ≠ .fault r := by
  cases hph : s.ph <;> simp only [seqPhase, hph]
  case s1 => exact phaseS1_ne_fault
  case s2 => exact hi.copyPayload_ne_fault (.inl ⟨hph, rfl⟩) fun _ => nofun
  case s5 => exact phaseS5_ne_fault
  case s6 => exact hi.copyPayload_ne_fault (.inr ⟨hph, rfl⟩) fun _ => nofun
  case d1 => exact phaseD1_ne_fault
  case d2 => exact withChannelCursor_ne_fault nofun
  case d3 => exact phaseD3_ne_fault
  case d4 => exact phaseD4_ne_fault hi hph
  all_goals nofun

/-! ## Every instruction, and the step -/

/-- From a state that meets the invariants and has no fault recorded, no instruction stops with a fault. -/
theorem exec_ne_fault {i : Instr} (hi : Inv s) (hf : s.flt = .noFault) : exec i s ≠ .fault r := by
  cases i with
  | init =>
    refine accept_ne_fault hf ?_
    split <;> nofun
  | submit | drain => exact accept_ne_fault hf (requireCfg_ne_fault nofun)
  | csenter | csexit | rdreg => exact accept_ne_fault hf nofun
  | rxbyte b =>
    refine stepWhen_ne_fault hf fun _ => ?_
    obtain ⟨-, -, -, -, hs, -⟩ := (paramsOk_iff _).1 hi.params
    rw [memWrite_element (isElement_rxAddr hs hi.rx.wcurBound)]
    nofun
  | txsend =>
    refine stepWhen_ne_fault hf fun hen => ?_
    obtain ⟨-, hlt, -⟩ := (canSend_iff s).1 hen
    exact memRead_ne_fault (isElement_txAddr (hlt.trans_le hi.tx.lenBound)) nofun
  | rxstart | txdone | irqtake => exact stepWhen_ne_fault hf nofun
  | seq =>
    show execSeq s ≠ _
    rw [execSeq_noFault hf]
    exact seqPhase_ne_fault hi

theorem runDecoded_ne_fault {d : Except DecodeError Instr} {f : Instr → State → Result} (hf : ∀ i, f i s ≠ .fault r) :
    runDecoded d f s ≠ .fault r := by
  cases d with
  | ok i => exact hf i
  | error e => nofun

/-- No step stops with a fault from there either: a turn passes, is refused, or runs one instruction. -/
theorem step_ne_fault (hi : Inv s) (hf : s.flt = .noFault) : step s ≠ .fault r := by
  rw [step_eq_takeStep hi.params hf]
  unfold takeStep
  split
  · nofun
  · unfold requesterTurn
    split
    · nofun
    split
    · exact runDecoded_ne_fault fun _ => exec_ne_fault hi.of_unread hf
    · nofun
  · exact runDecoded_ne_fault fun _ => exec_ne_fault hi.of_unread hf

/-- From a configured state that meets the invariants no instruction records a fault. -/
theorem exec_flt_of_cfg {i : Instr} (hi : Inv s) (hc : s.cfg = true) (h : exec i s = .next t) : t.flt = s.flt := by
  obtain hsame | ⟨hnc, -⟩ := exec_flt hi h
  · exact hsame
  · rw [hc] at hnc; cases hnc

/-- Settles O47: the turn and the presentation are inputs, and the instruction that runs neither records a fault nor stops with
one. -/
theorem configuredBlockNeverFaults : Obligations.ConfiguredBlockNeverFaults := by
  intro s hi hc hf
  refine ⟨fun t h => ?_, fun r => step_ne_fault hi hf⟩
  obtain ⟨-, -, ⟨rfl, -⟩ | ⟨rfl, -⟩ | ⟨i, -, -, -, -, h⟩ | ⟨w, i, -, -, -, h⟩⟩ := step_next h
  · exact hf
  · exact hf
  · exact (exec_flt_of_cfg (s := takePresented (takeTurn s)) hi.of_unread hc h).trans hf
  · exact (exec_flt_of_cfg (s := takeTurn s) hi.of_unread hc h).trans hf

end Sys2Proof.Machine
end

section
/-! SUPPORT. The decoder row by row: what the words of an instruction's row may hold, what the decoder answers for one that does and
for one that does not (rules R91, R92, R97), and the obligations on the encoding. -/

namespace Sys2Proof

variable {w : Word} {ps : List Byte} {i : Instr}

/-! ## The rows of the opcode map -/

@[simp] theorem opcOf_encode (i : Instr) : opcOf (encode i) = opcode i := opcOf_mkWord _ _ _

@[simp] theorem rsvOf_encode (i : Instr) : rsvOf (encode i) = 0 := rsvOf_mkWord _ _ _

@[simp] theorem bOf_encode (i : Instr) : bOf (encode i) = operandB i := bOf_mkWord _ _ _

@[simp] theorem nOf_encode (i : Instr) : nOf (encode i) = operandN i := nOf_mkWord _ _ _

/-- The values of `opc` that no instruction has (rule R97). -/
def ReservedOpc (o : BitVec 4) : Prop := o = 0x0 ∨ o = 0x7 ∨ o = 0xD ∨ o = 0xE

/-- One instruction of each row. -/
def rowInstrs : List Instr :=
  [.init, .submit 0 [], .drain, .csenter, .csexit false, .rdreg .status, .rxbyte 0, .rxstart, .txsend, .txdone, .irqtake, .seq]

theorem not_reservedOpc_opcode (i : Instr) : ¬ ReservedOpc (opcode i) := by
  unfold ReservedOpc
  cases i <;> simp only [opcode] <;> decide

theorem exists_opcode_iff (o : BitVec 4) : (∃ i, o = opcode i) ↔ ¬ ReservedOpc o := by
  constructor
  · rintro ⟨i, rfl⟩
    exact not_reservedOpc_opcode i
  · intro h
    have hrow : ∀ o : BitVec 4, (o = 0x0 ∨ o = 0x7 ∨ o = 0xD ∨ o = 0xE) ∨ o ∈ rowInstrs.map opcode := by decide
    obtain ⟨i, -, hi⟩ := List.mem_map.1 ((hrow o).resolve_left h)
    exact ⟨i, hi.symm⟩

/-- What the decoder makes of a word of an instruction's row: it reads the operands as the row has them. -/
def decodeRow (i : Instr) (w : Word) (ps : List Byte) : Except DecodeError Instr :=
  match i with
  | .submit _ _ => decodeSubmit w ps
  | .csexit _ => decodeCsexit w ps
  | .rdreg _ => decodeRdreg w ps
  | .rxbyte _ => decodeRxbyte w ps
  | .init | .drain | .csenter | .rxstart | .txsend | .txdone | .irqtake | .seq => withoutOperand w ps i

theorem decode_of_opcode (hr : rsvOf w = 0) (ho : opcOf w = opcode i) : decode w ps = decodeRow i w ps := by
  unfold decode
  rw [if_neg (not_not.2 hr), ho]
  cases i <;> simp [opcode, decodeRow]

theorem decode_of_rsv (hr : rsvOf w ≠ 0) : decode w ps = .error .nonzeroRsv := if_pos hr

theorem decode_of_reservedOpc (hr : rsvOf w = 0) (ho : ReservedOpc (opcOf w)) : decode w ps = .error .reservedOpcode := by
  unfold decode
  rw [if_neg (not_not.2 hr)]
  obtain ho | ho | ho | ho := ho <;> simp [ho]

/-! ## Decoding an encoded instruction -/

theorem withoutOperand_of_zero (hb : bOf w = 0) (hn : nOf w = 0) : withoutOperand w [] i = .ok i := by
  simp [withoutOperand, withoutPayload, hb, hn]

theorem decodeSubmit_of_length (hb : bOf w = 0) (hl : ps.length = (nOf w).toNat) :
    decodeSubmit w ps = .ok (.submit (nOf w) ps) := by
  simp [decodeSubmit, hb, hl]

theorem decodeCsexit_of_bit {m : Bool} (hb : bOf w = 0) (hn : nOf w = if m then 1 else 0) :
    decodeCsexit w [] = .ok (.csexit m) := by
  cases m <;> simp [decodeCsexit, withoutPayload, hb, hn]

theorem decodeRdreg_of_number {r : StatusReg} (hb : bOf w = 0) (hn : nOf w = statusRegNumber r) :
    decodeRdreg w [] = .ok (.rdreg r) := by
  have := statusRegNumber_lt r
  simp [decodeRdreg, withoutPayload, hb, hn, Nat.not_le.2 this]

theorem decodeRxbyte_of_zero (hn : nOf w = 0) : decodeRxbyte w [] = .ok (.rxbyte (bOf w)) := by
  simp [decodeRxbyte, withoutPayload, hn]

/-- A word with the fields of a well-formed instruction, followed by its payload, decodes to that instruction: `decode_fields` the
other way round. -/
theorem decode_of_fields (hr : rsvOf w = 0) (ho : opcOf w = opcode i) (hb : bOf w = operandB i) (hn : nOf w = operandN i)
    (hw : i.wellFormed = true) : decode w (payloadOf i) = .ok i := by
  rw [decode_of_opcode hr ho]
  cases i with
  | submit n ps =>
    rw [show n = nOf w from hn.symm]
    exact decodeSubmit_of_length hb (by simpa [Instr.wellFormed, hn, operandN, payloadOf] using hw)
  | csexit m => exact decodeCsexit_of_bit hb hn
  | rdreg r => exact decodeRdreg_of_number hb hn
  | rxbyte b => rw [show b = bOf w from hb.symm]; exact decodeRxbyte_of_zero hn
  | init | drain | csenter | rxstart | txsend | txdone | irqtake | seq => exact withoutOperand_of_zero hb hn

theorem decode_encode (hw : i.wellFormed = true) : decode (encode i) (payloadOf i) = .ok i :=
  decode_of_fields (rsvOf_encode i) (opcOf_encode i) (bOf_encode i) (nOf_encode i) hw

theorem encode_of_decode (h : decode w ps = .ok i) : encode i = w := by
  obtain ⟨hr, ho, hb, hn, -⟩ := decode_fields h
  rw [encode, ← ho, ← hb, ← hn, mkWord_fields hr]

/-! ## The fields a row admits -/

/-- What fields `b` and `n` of a legal word of an instruction's row may hold (rules R91, R97). -/
def Instr.admits : Instr → Byte → Len → Prop
  | .submit _ _, b, _ => b = 0
  | .csexit _, b, n => b = 0 ∧ n.toNat < 2
  | .rdreg _, b, n => b = 0 ∧ n.toNat < 6
  | .rxbyte _, _, n => n = 0
  | .init, b, n | .drain, b, n | .csenter, b, n | .rxstart, b, n => b = 0 ∧ n = 0
  | .txsend, b, n | .txdone, b, n | .irqtake, b, n | .seq, b, n => b = 0 ∧ n = 0

theorem admits_zero (i : Instr) : i.admits 0 0 := by
  cases i <;> simp [Instr.admits]

theorem exists_csexit_operand {n : Len} (h : n.toNat < 2) : ∃ m : Bool, n = if m then 1 else 0 := by
  obtain rfl | rfl : n = 0 ∨ n = 1 := by bv_omega
  · exact ⟨false, rfl⟩
  · exact ⟨true, rfl⟩

theorem exists_statusRegNumber {n : Len} (h : n.toNat < 6) : ∃ r, n = statusRegNumber r := by
  obtain rfl | rfl | rfl | rfl | rfl | rfl : n = 0 ∨ n = 1 ∨ n = 2 ∨ n = 3 ∨ n = 4 ∨ n = 5 := by bv_omega
  exacts [⟨.status, rfl⟩, ⟨.txlen, rfl⟩, ⟨.rxwcur, rfl⟩, ⟨.rxrcur, rfl⟩, ⟨.captx, rfl⟩, ⟨.caprx, rfl⟩]

theorem zeroPayload_of_ne (h : opcOf w ≠ 0x2) : zeroPayload w = [] := if_neg h

/-- A word whose fields its row admits decodes, its payload zeros, to an instruction of the row. -/
theorem decode_of_admits (hr : rsvOf w = 0) (ho : opcOf w = opcode i) (h : i.admits (bOf w) (nOf w)) :
    ∃ j, decode w (zeroPayload w) = .ok j ∧ opcodeRow j = opcodeRow i := by
  rw [decode_of_opcode hr ho]
  cases i with
  | submit n ps => exact ⟨_, decodeSubmit_of_length h (by simp [zeroPayload, ho, opcode]), rfl⟩
  | csexit m =>
    obtain ⟨m', hn⟩ := exists_csexit_operand h.2
    rw [zeroPayload_of_ne (by simp [ho, opcode])]
    exact ⟨_, decodeCsexit_of_bit h.1 hn, rfl⟩
  | rdreg r =>
    obtain ⟨r', hn⟩ := exists_statusRegNumber h.2
    rw [zeroPayload_of_ne (by simp [ho, opcode])]
    exact ⟨_, decodeRdreg_of_number h.1 hn, rfl⟩
  | rxbyte b =>
    rw [zeroPayload_of_ne (by simp [ho, opcode])]
    exact ⟨_, decodeRxbyte_of_zero h, rfl⟩
  | init | drain | csenter | rxstart | txsend | txdone | irqtake | seq =>
    rw [zeroPayload_of_ne (by simp [ho, opcode])]
    exact ⟨_, withoutOperand_of_zero h.1 h.2, rfl⟩

/-! ## The words a row selects -/

/-- A word a row selects has the row's `opc`, a zero reserved field, and operand fields that are zero under the row's mask. -/
theorem fields_of_selected (h : w &&& (opcodeRow i).mask = (opcodeRow i).matchBits) :
    rsvOf w = 0 ∧ opcOf w = opcode i ∧ bOf w &&& bOf (opcodeRow i).mask = 0 ∧ nOf w &&& nOf (opcodeRow i).mask = 0 := by
  have hmatch : rsvOf (opcodeRow i).matchBits = 0 ∧ opcOf (opcodeRow i).matchBits = opcode i ∧
      bOf (opcodeRow i).matchBits = 0 ∧ nOf (opcodeRow i).matchBits = 0 := by
    cases i <;> dsimp only [opcodeRow, opcode] <;> decide
  have hmask : rsvOf (opcodeRow i).mask = BitVec.allOnes 4 ∧ opcOf (opcodeRow i).mask = BitVec.allOnes 4 := by
    cases i <;> dsimp only [opcodeRow] <;> decide
  rw [rsvOf, opcOf] at hmask
  rw [← h] at hmatch
  simpa only [rsvOf, opcOf, bOf, nOf, BitVec.extractLsb'_and, hmask, BitVec.and_allOnes] using hmatch

theorem toNat_lt_two_of_and {n : Len} (h : n &&& 0xFFFE = 0) : n.toNat < 2 := by
  have hbit : n = n &&& 1 := by
    calc n = n &&& (0xFFFE ||| 1) := (BitVec.and_allOnes).symm
      _ = (n &&& 0xFFFE) ||| (n &&& 1) := BitVec.and_or_distrib_left
      _ = n &&& 1 := by rw [h]; exact BitVec.zero_or
  rw [hbit, BitVec.toNat_and]
  exact Nat.lt_succ_of_le Nat.and_le_right

/-- The operand fields of a word a row selects are ones the row admits, but for RDREG of 6 and 7 (rule R97). -/
theorem admits_of_selected (h : w &&& (opcodeRow i).mask = (opcodeRow i).matchBits)
    (hreg : (opcodeRow i).mnemonic = "RDREG" → (nOf w).toNat < 6) : i.admits (bOf w) (nOf w) := by
  obtain ⟨-, -, hb, hn⟩ := fields_of_selected h
  have hmasks : bOf 0xFFFFFFFF = BitVec.allOnes 8 ∧ nOf 0xFFFFFFFF = BitVec.allOnes 16 ∧ bOf 0xFFFF0000 = BitVec.allOnes 8 ∧
      bOf 0xFFFFFFFE = BitVec.allOnes 8 ∧ nOf 0xFFFFFFFE = 0xFFFE ∧ bOf 0xFFFFFFF8 = BitVec.allOnes 8 ∧
      nOf 0xFF00FFFF = BitVec.allOnes 16 := by decide
  cases i with simp only [opcodeRow, hmasks, BitVec.and_allOnes] at hb hn
  | submit => exact hb
  | csexit => exact ⟨hb, toNat_lt_two_of_and hn⟩
  | rdreg => exact ⟨hb, hreg rfl⟩
  | rxbyte => exact hn
  | init | drain | csenter | rxstart | txsend | txdone | irqtake | seq => exact ⟨hb, hn⟩

/-- The word of an `opc` alone decodes to an instruction of its row, so the `opc` tells the row. -/
theorem opcodeRow_eq_of_opcode {i j : Instr} (h : opcode i = opcode j) : opcodeRow i = opcodeRow j := by
  obtain ⟨k, hk, hi⟩ := decode_of_admits (rsvOf_mkWord _ _ _) (opcOf_mkWord (opcode i) 0 0) (by simpa using admits_zero i)
  obtain ⟨l, hl, hj⟩ := decode_of_admits (rsvOf_mkWord _ _ _) (opcOf_mkWord (opcode j) 0 0) (by simpa using admits_zero j)
  rw [h, hl] at hk
  injection hk with hkl
  rw [← hi, ← hj, hkl]

theorem inRow (i : Instr) : Laws.InRow.Statement i := by
  cases i with
  | init => exact Laws.InRow.init
  | submit n ps => exact Laws.InRow.submit n ps
  | drain => exact Laws.InRow.drain
  | csenter => exact Laws.InRow.csenter
  | csexit m => exact Laws.InRow.csexit m
  | rdreg r => exact Laws.InRow.rdreg r
  | rxbyte b => exact Laws.InRow.rxbyte b
  | rxstart => exact Laws.InRow.rxstart
  | txsend => exact Laws.InRow.txsend
  | txdone => exact Laws.InRow.txdone
  | irqtake => exact Laws.InRow.irqtake
  | seq => exact Laws.InRow.seq

/-! ## The obligations on the two directions and on the opcode map -/

/-- Settles O1: the encoder writes the instruction's fields, from which the decoder reads it back. -/
theorem decodeOfEncodeReturnsTheInstruction : Obligations.DecodeOfEncodeReturnsTheInstruction := fun _ hw => decode_encode hw

/-- Settles O2: a word that decodes has the fields of its instruction, and no other word has them. -/
theorem decodedWordIsTheEncoding : Obligations.DecodedWordIsTheEncoding := fun _ _ _ h => by
  obtain ⟨-, -, -, -, hps, hw⟩ := decode_fields h
  exact ⟨hw, encode_of_decode h, hps⟩

/-- Settles O3: mask and match are read field by field. -/
theorem opcodeMapSelectsTheWords : Obligations.OpcodeMapSelectsTheWords := by
  refine ⟨fun w ps i h => ?_, fun w i hsel hreg => ?_, fun w i j hi hj => ?_, fun w => exists_opcode_iff _⟩
  · obtain ⟨hsel, hopc, hlabel⟩ := inRow i
    rw [encode_of_decode h] at hsel hopc hlabel
    exact ⟨beq_iff_eq.1 hsel, hopc, hlabel⟩
  · obtain ⟨hr, ho, -⟩ := fields_of_selected hsel
    exact ⟨_, decode_of_admits hr ho (admits_of_selected hsel hreg)⟩
  · obtain ⟨-, hoi, -⟩ := fields_of_selected hi
    obtain ⟨-, hoj, -⟩ := fields_of_selected hj
    exact opcodeRow_eq_of_opcode (hoi.symm.trans hoj)

/-! ## The illegal words -/

/-- The illegal words, by their fields (rule R97). -/
def IllegalWord (w : Word) : Prop :=
  opcOf w = 0x0 ∨ opcOf w = 0x7 ∨ opcOf w = 0xD ∨ opcOf w = 0xE ∨ rsvOf w ≠ 0 ∨ (opcOf w ≠ 0x8 ∧ bOf w ≠ 0) ∨
    (opcOf w ≠ 0x2 ∧ opcOf w ≠ 0x5 ∧ opcOf w ≠ 0x6 ∧ nOf w ≠ 0) ∨ (opcOf w = 0x5 ∧ 2 ≤ (nOf w).toNat) ∨
    (opcOf w = 0x6 ∧ 6 ≤ (nOf w).toNat)

/-- A word with the `opc` of a row and a zero reserved field is illegal exactly where its row does not admit its operand fields. -/
theorem illegalWord_iff_not_admits (hr : rsvOf w = 0) (ho : opcOf w = opcode i) :
    IllegalWord w ↔ ¬ i.admits (bOf w) (nOf w) := by
  cases i <;> simp only [IllegalWord, Instr.admits, hr, ho, opcode, not_and_or, Nat.not_lt] <;> simp

/-! ## The decoder on the operand fields no row admits -/

/-- Decoding fails for a reason of rule R97, whatever the payload. -/
def IllegalAnswer (d : Except DecodeError Instr) : Prop := ∃ e, d = .error e ∧ Machine.refusalOf e = .illegalCommand e

theorem withoutOperand_illegal (h : ¬ (bOf w = 0 ∧ nOf w = 0)) : IllegalAnswer (withoutOperand w ps i) := by
  unfold withoutOperand
  split
  · exact ⟨_, rfl, rfl⟩
  · rename_i hb
    rw [if_pos fun hn => h ⟨not_not.1 hb, hn⟩]
    exact ⟨_, rfl, rfl⟩

theorem decodeSubmit_illegal (h : bOf w ≠ 0) : IllegalAnswer (decodeSubmit w ps) := ⟨_, if_pos h, rfl⟩

theorem decodeCsexit_illegal (h : ¬ (bOf w = 0 ∧ (nOf w).toNat < 2)) : IllegalAnswer (decodeCsexit w ps) := by
  unfold decodeCsexit
  split
  · exact ⟨_, rfl, rfl⟩
  · rename_i hb
    have hn : ¬ (nOf w).toNat < 2 := fun hn => h ⟨not_not.1 hb, hn⟩
    rw [if_neg (fun h0 => hn (by rw [h0]; decide)), if_neg (fun h1 => hn (by rw [h1]; decide))]
    exact ⟨_, rfl, rfl⟩

theorem decodeRdreg_illegal (h : ¬ (bOf w = 0 ∧ (nOf w).toNat < 6)) : IllegalAnswer (decodeRdreg w ps) := by
  unfold decodeRdreg
  split
  · exact ⟨_, rfl, rfl⟩
  rename_i hb
  split
  · exact ⟨_, rfl, rfl⟩
  split
  · rename_i r hr
    refine absurd ⟨not_not.1 hb, ?_⟩ h
    rw [← statusRegNumber_of hr]
    cases r <;> decide
  · exact ⟨_, rfl, rfl⟩

theorem decodeRxbyte_illegal (h : nOf w ≠ 0) : IllegalAnswer (decodeRxbyte w ps) := ⟨_, if_pos h, rfl⟩

theorem decodeRow_illegal (h : ¬ i.admits (bOf w) (nOf w)) : IllegalAnswer (decodeRow i w ps) := by
  cases i with
  | submit => exact decodeSubmit_illegal h
  | csexit => exact decodeCsexit_illegal h
  | rdreg => exact decodeRdreg_illegal h
  | rxbyte => exact decodeRxbyte_illegal h
  | init | drain | csenter | rxstart | txsend | txdone | irqtake | seq => exact withoutOperand_illegal h

/-- No payload makes an illegal word decode, and the reason is one of rule R97. -/
theorem decode_of_illegal (h : IllegalWord w) : IllegalAnswer (decode w ps) := by
  by_cases hr : rsvOf w = 0
  swap
  · exact ⟨_, decode_of_rsv hr, rfl⟩
  by_cases ho : ReservedOpc (opcOf w)
  · exact ⟨_, decode_of_reservedOpc hr ho, rfl⟩
  obtain ⟨i, hi⟩ := (exists_opcode_iff _).2 ho
  rw [decode_of_opcode hr hi]
  exact decodeRow_illegal ((illegalWord_iff_not_admits hr hi).1 h)

/-- A word that is not illegal decodes, its payload zeros. -/
theorem decode_of_not_illegal (h : ¬ IllegalWord w) : ∃ j, decode w (zeroPayload w) = .ok j := by
  have hr : rsvOf w = 0 := by by_contra hr; exact h (by unfold IllegalWord; tauto)
  have ho : ¬ ReservedOpc (opcOf w) := fun ho => h (by unfold IllegalWord; unfold ReservedOpc at ho; tauto)
  obtain ⟨i, hi⟩ := (exists_opcode_iff _).2 ho
  obtain ⟨j, hj, -⟩ := decode_of_admits hr hi (not_not.1 fun hn => h ((illegalWord_iff_not_admits hr hi).2 hn))
  exact ⟨j, hj⟩

theorem illegalWord_iff_not_decodes (w : Word) : IllegalWord w ↔ ∀ ps i, decode w ps ≠ .ok i := by
  refine ⟨fun h ps i hd => ?_, fun h => ?_⟩
  · obtain ⟨e, he, -⟩ := decode_of_illegal (ps := ps) h
    rw [hd] at he; cases he
  · by_contra hn
    obtain ⟨j, hj⟩ := decode_of_not_illegal hn
    exact h _ _ hj

theorem decodeCommand_of_illegal (h : IllegalWord w ∨ isLabelWord w = true) : IllegalAnswer (decodeCommand w ps) := by
  unfold decodeCommand
  split
  · exact ⟨_, rfl, rfl⟩
  · exact decode_of_illegal (h.resolve_right ‹_›)

/-- In a label's turn an illegal word is rejected as it stands, whatever its bit 31. -/
theorem decodeLabel_of_illegal (h : IllegalWord w) : IllegalAnswer (decodeLabel w) := by
  unfold decodeLabel
  split
  · exact decode_of_illegal h
  · obtain ⟨e, he, hre⟩ := decode_of_illegal (ps := zeroPayload w) h
    rw [he]
    exact ⟨e, rfl, hre⟩

/-- Settles O5: the decoder evaluates each word. -/
theorem writtenWordsDecode : Obligations.WrittenWordsDecode := ⟨rfl, rfl, rfl, rfl, rfl, rfl, rfl, rfl, rfl, rfl⟩

end Sys2Proof
end

section
/-! SUPPORT. The turns of the requester and of a label as what the decoder answers, run on the state with the turn taken, and the
obligations on the step (rules R90, R97, R185). -/

namespace Sys2Proof.Machine

variable {s : State} {run : Instr → State → Result}

/-- With legal parameters and no fault the requester's turn, at IDLE, decodes the presentation at the head of the port. -/
theorem step_command {c : Presented} {more : List Presented} {turns : List Turn} (hp : paramsOk s.par = true)
    (hf : s.flt = .noFault) (hport : s.port = c :: more) (hs : s.sched = .req :: turns) (hph : s.ph = .idle) :
    step s = runDecoded (decodeCommand c.word c.payload) exec { s with port := more, sched := turns } := by
  rw [step_eq_takeStep hp hf, takeStep_req hs]
  simp only [requesterTurn, hport, hph, if_pos, takePresented, List.tail_cons]

/-- With legal parameters and no fault a label's turn decodes the word the schedule names. -/
theorem step_label {w : Word} {turns : List Turn} (hp : paramsOk s.par = true) (hf : s.flt = .noFault)
    (hs : s.sched = .label w :: turns) : step s = runDecoded (decodeLabel w) exec { s with sched := turns } := by
  rw [step_eq_takeStep hp hf, ← takeTurn_of_sched hs]
  simp only [takeStep, hs, labelTurn]

theorem runDecoded_of_illegal {d : Except DecodeError Instr} (h : IllegalAnswer d) :
    ∃ e, runDecoded d run s = .refused (.illegalCommand e) := by
  obtain ⟨e, rfl, he⟩ := h
  exact ⟨e, congrArg _ he⟩

/-- Settles O4: the decoder's answer on an illegal word is the refusal of either turn. -/
theorem illegalWordsAreRefused : Obligations.IllegalWordsAreRefused := by
  refine ⟨illegalWord_iff_not_decodes, fun s c more turns hp hf hph hport hs h => ?_, fun s w turns hp hf hs h => ?_⟩
  · rw [step_command hp hf hport hs hph]
    exact runDecoded_of_illegal (decodeCommand_of_illegal h)
  · rw [step_label hp hf hs]
    exact runDecoded_of_illegal (decodeLabel_of_illegal h)

/-- Settles O6: either turn runs what the decoder answers. -/
theorem stepRunsTheDecodedInstruction : Obligations.StepRunsTheDecodedInstruction := by
  refine fun s hp hf => ⟨fun c more turns i hport hs hph hd => ?_, fun w turns i hs hd => ?_⟩
  · rw [step_command hp hf hport hs hph, hd]; rfl
  · rw [step_label hp hf hs, hd]; rfl

end Sys2Proof.Machine
end

section
/-! SUPPORT. What the step that ends a DRAIN returns (rules R158, R161). -/

namespace Sys2Proof.Machine

variable {s t : State}

/-- A DRAIN whose copy has come to the snapshot has copied all it returns: the two counts agree modulo `C_rx` and differ by less. -/
theorem RxAccount.target_eq (hi : Inv s) (ha : RxAccount s) (hph : s.ph = .d3 ∨ s.ph = .d4)
    (hmod : s.snap.toNat = (s.returned + s.copying) % s.par.cRx) : s.target = s.returned + s.copying := by
  have hsnap := hi.rx.snapBound hph
  obtain ⟨hle, -⟩ := ha.snapshot hph
  have hlt : s.target < s.returned + s.par.cRx := by
    have hmodlt := Nat.mod_lt s.returned (show 0 < s.par.cRx by omega)
    simp only [State.target, unread]
    split <;> omega
  have heq : s.target ≡ s.returned + s.copying [MOD s.par.cRx] := (State.target_mod hsnap).trans hmod
  exact (heq.symm.eq_of_abs_lt (by rw [abs_lt]; omega)).symm

/-- The sequencer's step that ends a DRAIN answers the count of what it copied, whose last byte lies before the snapshot, and leaves
the read cursor there. -/
theorem seqPhase_ends_drain (hi : Inv s) (ha : RxAccount s) (hph : s.ph = .d3 ∨ s.ph = .d4) (h : seqPhase s = .next t)
    (ht : t.ph = .idle) : ∃ n c : Len, n.toNat = s.copying ∧ s.snap.toNat = (s.returned + s.copying) % s.par.cRx ∧
      t = respondDrain n { s with rcur := s.snap, dcnt := c, ph := .idle } := by
  have hv := hi.rx.drainValid (.inr hph)
  obtain hd3 | hd4 := hph
  · have hcpy : s.copying = 0 := ha.notCopying (by simp [hd3])
    simp only [seqPhase, hd3] at h
    obtain ⟨he, rfl⟩ | ⟨-, rfl⟩ | ⟨-, rfl⟩ := phaseD3_next h
    · refine ⟨0, 0, hcpy.symm, ?_, by rw [he]⟩
      rw [← he, hcpy]
      exact ha.rcur hv (by simp [hd3])
    · cases ht
    · cases ht
  · simp only [seqPhase, hd4] at h
    have hne : s.ph ≠ .idle := by simp [hd4]
    obtain ⟨-, v, -, rfl⟩ | ⟨-, -, rfl⟩ | ⟨hge, he, -, rfl⟩ | ⟨-, -, -, rfl⟩ | ⟨-, -, -, rfl⟩ | ⟨-, -, -, rfl⟩ := phaseD4_next h
    · exact absurd ht hne
    · exact absurd ht hne
    · refine ⟨s.dcnt, s.dcnt, (ha.count hd4).symm, ?_, rfl⟩
      rw [← ha.lastRun hd4 he, ← he]
      exact le_antisymm hge (hi.rx.runPtr hd4)
    · exact absurd ht hne
    · exact absurd ht hne
    · exact absurd ht hne

/-- Settles O41: the DRAIN ends with its copy at the snapshot, and the account of O40 counts what it copied. -/
theorem drainReturnsTheNextArrivals : Obligations.DrainReturnsTheNextArrivals := by
  intro s t hi ha hf hph h ht
  obtain ⟨n, c, hn, hmod, rfl⟩ := seqPhase_ends_drain hi ha hph (execSeq_next h).2 ht
  have hacc := ha.of_drained (n := n) (c := c) (hi.rx.drainValid (.inr hph)) hmod
  have hret : (respondDrain n { s with rcur := s.snap, dcnt := c, ph := .idle }).returned = s.returned + s.copying :=
    returned_respondDrain _ _
  have hin := hacc.inOrder
  rw [copying_respondDrain, Nat.add_zero] at hin
  refine ⟨hret.trans (ha.target_eq hi hph hmod).symm, ?_, hin, rfl⟩
  rw [hret, Nat.add_sub_cancel_left, ← hn]
  rfl

end Sys2Proof.Machine
end

section
/-! SUPPORT. The exactly-once account of rule R131: what of the window is still to send, and that every instruction keeps the account
unless it is a TXSEND taken in the commit window (rule R130). -/

namespace Sys2Proof.Machine

variable {s t : State}

/-! ## The bytes still to send -/

/-- What is still to send reads the TX registers and the bytes below the committed length. -/
theorem unsent_congr (hlen : t.txLen = s.txLen) (hsent : t.txSent = s.txSent)
    (hb : ∀ k < s.txLen.toNat, t.txbuf k = s.txbuf k) : t.unsent = s.unsent := by
  rw [State.unsent, State.unsent, hlen, hsent]
  refine List.map_congr_left fun k hk => hb k ?_
  rw [List.mem_range'_1] at hk
  omega

theorem unsent_of_all_sent (h : s.txSent = s.txLen) : s.unsent = [] := by
  rw [State.unsent, h, Nat.sub_self]; rfl

/-- One byte sent is the first of those still to send. -/
theorem unsent_eq_cons (hlt : s.txSent.toNat < s.txLen.toNat) :
    s.unsent = s.txbuf s.txSent.toNat :: State.unsent { s with txSent := len (s.txSent.toNat + 1) } := by
  have hnext : (len (s.txSent.toNat + 1)).toNat = s.txSent.toNat + 1 := len_toNat (by have := s.txLen.isLt; omega)
  have hcount : s.txLen.toNat - s.txSent.toNat = s.txLen.toNat - (s.txSent.toNat + 1) + 1 := by omega
  simp only [State.unsent, hnext, hcount, List.range'_succ, List.map_cons]
  rfl

/-- A payload in TxBuffer is what its offsets read. -/
theorem map_txbuf_payload {off : Nat} {ps : List Byte}
    (h : ∀ k, (hk : k < ps.length) → s.txbuf (off + k) = some ps[k]) :
    (List.range' off ps.length).map s.txbuf = ps.map some := by
  refine List.ext_getElem (by simp) fun k _ hk => ?_
  simp [h k (by simpa using hk)]

/-- Extending the window by a payload behind it adds the payload to what is still to send. -/
theorem unsent_extended {l : Len} (hl : l.toNat = s.txLen.toNat + s.opBytes.length) (hsent : s.txSent.toNat ≤ s.txLen.toNat)
    (hb : ∀ k, (hk : k < s.opBytes.length) → s.txbuf (s.txLen.toNat + k) = some s.opBytes[k]) :
    State.unsent { s with txLen := l } = s.unsent ++ s.opBytes.map some := by
  have hcount : l.toNat - s.txSent.toNat = s.txLen.toNat - s.txSent.toNat + s.opBytes.length := by omega
  rw [← map_txbuf_payload hb, State.unsent, State.unsent, ← List.map_append]
  simp only [hcount, ← List.range'_append_1, Nat.add_sub_cancel' hsent]
  rfl

/-- A transfer of the payload restarted from the origin has exactly the payload to send. -/
theorem unsent_restarted (hl : s.opBytes.length = s.opN.toNat) (hlen : t.txLen = s.opN) (hsent : t.txSent = 0)
    (hb : t.txbuf = (storeRun (txAddr s.par 0) s.opBytes s).txbuf) : t.unsent = s.opBytes.map some := by
  rw [State.unsent, hlen, hsent, hb, ← hl]
  exact map_txbuf_payload fun _ hk => txbuf_storeRun_inside hk

theorem owed_of_ne_s5 (hph : s.ph ≠ .s5) : s.owed = s.obs.accepted := if_neg fun h => hph h.1

theorem owed_in_window (hph : s.ph = .s5) (ha : s.txActive = true) : s.owed = s.obs.accepted ++ s.opBytes := if_pos ⟨hph, ha⟩

/-! ## The account -/

theorem TxAccount.of_idle (ha : t.txActive = false) (hw : t.obs.wireOut = t.obs.accepted) : TxAccount t where
  active := fun h => by rw [ha] at h; cases h
  idle := fun _ => hw
  window := fun _ h => by rw [ha] at h; cases h

/-- Outside the commit window the account of a live transfer is about the accepted payloads alone. -/
theorem TxAccount.of_active (ha : t.txActive = true) (hph : t.ph ≠ .s5)
    (hw : t.obs.wireOut.map some ++ t.unsent = t.obs.accepted.map some) : TxAccount t where
  active := fun _ => by rw [owed_of_ne_s5 hph, hw]
  idle := fun h => by rw [ha] at h; cases h
  window := fun h => absurd h hph

/-- In the commit window the payload in progress is owed too, and the engine has not reached it. -/
theorem TxAccount.of_window (ha : t.txActive = true) (hph : t.ph = .s5)
    (hw : t.obs.wireOut.map some ++ t.unsent = (t.obs.accepted ++ t.opBytes).map some) (hsent : t.txSent.toNat ≤ t.sL.toNat) :
    TxAccount t where
  active := fun _ => by rw [owed_in_window hph ha, hw]
  idle := fun h => by rw [ha] at h; cases h
  window := fun _ _ => hsent

/-- The account reads the TX registers, the bytes of the window, the streams of bytes sent and accepted, and, at S5 only, the phase
with the payload and the sampled length. -/
theorem TxAccount.frame (hacc : TxAccount s) (ha : t.txActive = s.txActive := by rfl) (hlen : t.txLen = s.txLen := by rfl)
    (hsent : t.txSent = s.txSent := by rfl) (hwire : t.obs.wireOut = s.obs.wireOut := by rfl)
    (haccepted : t.obs.accepted = s.obs.accepted := by rfl)
    (hb : s.txActive = true → ∀ k < s.txLen.toNat, t.txbuf k = s.txbuf k := by exact fun _ _ _ => rfl)
    (hph : t.ph = s.ph ∧ t.opBytes = s.opBytes ∧ t.sL = s.sL ∨ s.ph ≠ .s5 ∧ t.ph ≠ .s5 := by exact .inl ⟨rfl, rfl, rfl⟩) :
    TxAccount t where
  active := fun h => by
    rw [ha] at h
    have howed : t.owed = s.owed := by
      obtain ⟨hp, ho, -⟩ | ⟨hs, ht⟩ := hph
      · simp only [State.owed, hp, ho, ha, haccepted]
      · rw [owed_of_ne_s5 hs, owed_of_ne_s5 ht, haccepted]
    rw [howed, unsent_congr hlen hsent (hb h), hwire]
    exact hacc.active h
  idle := by rw [ha, hwire, haccepted]; exact hacc.idle
  window := fun h5 h => by
    obtain ⟨hp, -, hL⟩ | ⟨-, ht⟩ := hph
    · rw [hsent, hL]; exact hacc.window (hp ▸ h5) (ha ▸ h)
    · exact absurd h5 ht

/-! ## Commands -/

/-- Before INIT no transfer is active, so INIT finds the accepted payloads sent and leaves them so. -/
theorem execInit_keeps_txAccount (hi : Inv s) (hacc : TxAccount s) (h : execInit s = .next t) : TxAccount t := by
  obtain ⟨-, ⟨-, hc, rfl⟩ | ⟨-, rfl⟩⟩ := execInit_next h
  · have ha : s.txActive = false := by
      by_contra h1
      have := hi.tx.activeCfg (by simpa using h1)
      rw [hc] at this; cases this
    exact .of_idle rfl (hacc.idle ha)
  · exact hacc

theorem exec_req_keeps_txAccount {i : Instr} (hi : Inv s) (hacc : TxAccount s) (hreq : agentOf i = .req)
    (h : exec i s = .next t) : TxAccount t := by
  cases i with
  | init => exact execInit_keeps_txAccount hi hacc h
  | submit n ps =>
    obtain ⟨-, ⟨hph, -, rfl⟩ | ⟨-, -, rfl⟩ | ⟨-, rfl⟩⟩ := execSubmit_next h
    · exact hacc.frame (hph := .inr (by simp [hph]))
    · exact hacc.frame
    · exact hacc
  | drain =>
    obtain ⟨-, ⟨hph, -, rfl⟩ | ⟨-, -, rfl⟩ | ⟨-, rfl⟩⟩ := execDrain_next h
    · exact hacc.frame (hph := .inr (by simp [hph]))
    · exact hacc.frame
    · exact hacc
  | csenter => obtain ⟨-, ⟨-, rfl⟩ | ⟨-, rfl⟩⟩ := execCsenter_next h <;> exact hacc.frame
  | csexit m => obtain ⟨-, ⟨-, rfl⟩ | ⟨-, rfl⟩⟩ := execCsexit_next h <;> exact hacc.frame
  | rdreg r => obtain ⟨-, ⟨-, -, rfl⟩ | ⟨-, rfl⟩⟩ := execRdreg_next h <;> exact hacc.frame
  | rxbyte | rxstart | txsend | txdone | irqtake | seq => cases hreq

/-! ## The phases of SUBMIT -/

theorem phaseS1_keeps_txAccount (hacc : TxAccount s) (hph : s.ph = .s1) (h : phaseS1 s = .next t) : TxAccount t := by
  obtain ⟨-, rfl | ⟨-, -, rfl⟩⟩ := phaseS1_next h
  · exact hacc.frame (hph := .inr (by simp [hph, respondCapacityExceeded]))
  · exact hacc.frame (hph := .inr (by simp [hph]))

/-- The copy of S2 lies behind the window, which ends at the sampled length. -/
theorem phaseS2_keeps_txAccount (hi : Inv s) (hacc : TxAccount s) (hph : s.ph = .s2) (h : phaseS2 s = .next t) :
    TxAccount t := by
  obtain ⟨-, rfl⟩ := phaseS2_next h
  refine hacc.frame (hb := fun ha k hk => ?_) (hph := .inr (by simp [hph]))
  rw [← hi.submit.sampled (.inl hph) ha] at hk
  exact (txbuf_storeRun _ _ _).trans (if_neg (by omega))

/-- S4 puts the payload into the window and, with it, into what is owed; the engine is inside the old window. -/
theorem phaseS4_keeps_txAccount (hi : Inv s) (hacc : TxAccount s) (hph : s.ph = .s4) (h : phaseS4 s = .next t) :
    TxAccount t := by
  obtain rfl := phaseS4_next h
  rcases Bool.eq_false_or_eq_true s.txActive with ha | ha
  · have hL : s.sL = s.txLen := hi.submit.sampled (by simp [hph]) ha
    have hfit := hi.submit.fits (by simp [hph])
    have hpay := hi.submit.payload (by rw [hph]; rfl)
    have hsent := hi.tx.sentBound ha
    obtain ⟨-, htx, -⟩ := (paramsOk_iff _).1 hi.params
    have hl : (len (s.sL.toNat + s.opN.toNat)).toNat = s.txLen.toNat + s.opBytes.length := by
      rw [len_toNat (by omega), hL, hpay]
    have hb := hi.submit.copied (.inr hph)
    rw [hL] at hb
    have hold := hacc.active ha
    rw [owed_of_ne_s5 (by simp [hph])] at hold
    refine .of_window ha rfl ?_ (hL ▸ hsent)
    rw [List.map_append, ← hold, List.append_assoc, ← unsent_extended hl hsent hb]
    rfl
  · exact .of_idle ha (hacc.idle ha)

/-- S5 with a transfer active turns the payload in progress into an accepted one. -/
theorem phaseS5_keeps_txAccount (hacc : TxAccount s) (hph : s.ph = .s5) (h : phaseS5 s = .next t) : TxAccount t := by
  obtain ⟨ha, rfl⟩ | ⟨ha, rfl⟩ := phaseS5_next h
  · have hold := hacc.active ha
    rw [owed_in_window hph ha] at hold
    exact .of_active ha nofun hold
  · exact .of_idle ha (hacc.idle ha)

/-- S6 accepts the payload and puts exactly it into the window of a new transfer. -/
theorem phaseS6_keeps_txAccount (hi : Inv s) (hacc : TxAccount s) (hph : s.ph = .s6) (h : phaseS6 s = .next t) :
    TxAccount t := by
  obtain ⟨hl, ht⟩ := phaseS6_next h
  have hold := hacc.idle (hi.submit.restart hph)
  have hunsent : t.unsent = s.opBytes.map some := by
    rw [ht]; exact unsent_restarted hl rfl rfl rfl
  subst ht
  refine .of_active rfl nofun ?_
  rw [hunsent]
  show s.obs.wireOut.map some ++ _ = (s.obs.accepted ++ s.opBytes).map some
  rw [hold, List.map_append]

/-! ## The sequencer -/

/-- D2 writes nothing the account reads, wherever the write cursor stands. -/
theorem phaseD2_keeps_txAccount (hacc : TxAccount s) (hph : s.ph = .d2) (h : phaseD2 s = .next t) : TxAccount t := by
  obtain ⟨c, -, -, h⟩ | ⟨-, rfl⟩ := withChannelCursor_next h
  · cases h
    exact hacc.frame (hph := .inr (by simp [hph]))
  · exact hacc.frame

theorem execSeq_keeps_txAccount (hi : Inv s) (hacc : TxAccount s) (h : execSeq s = .next t) : TxAccount t := by
  obtain ⟨-, h⟩ := execSeq_next h
  obtain ⟨-, rfl⟩ | ⟨hph, h⟩ | ⟨hph, h⟩ | ⟨hph, h⟩ | ⟨hph, h⟩ | ⟨hph, h⟩ | ⟨hph, h⟩ | ⟨hph, h⟩ | ⟨hph, h⟩ | ⟨hph, h⟩ |
    ⟨hph, h⟩ := seqPhase_next h
  · exact hacc
  · exact phaseS1_keeps_txAccount hacc hph h
  · exact phaseS2_keeps_txAccount hi hacc hph h
  · obtain rfl := phaseS3_next h
    exact hacc.frame (hph := .inr (by simp [hph]))
  · exact phaseS4_keeps_txAccount hi hacc hph h
  · exact phaseS5_keeps_txAccount hacc hph h
  · exact phaseS6_keeps_txAccount hi hacc hph h
  · obtain ⟨-, rfl⟩ | ⟨-, -, -, rfl⟩ | ⟨-, -, -, rfl⟩ | ⟨-, -, rfl⟩ := phaseD1_next h <;>
      exact hacc.frame (hph := .inr (by simp [hph]))
  · exact phaseD2_keeps_txAccount hacc hph h
  · obtain ⟨-, rfl⟩ | ⟨-, rfl⟩ | ⟨-, rfl⟩ := phaseD3_next h <;> exact hacc.frame (hph := .inr (by simp [hph]))
  · obtain ⟨-, -, -, rfl⟩ | ⟨-, -, rfl⟩ | ⟨-, -, -, rfl⟩ | ⟨-, -, -, rfl⟩ | ⟨-, -, -, rfl⟩ | ⟨-, -, -, rfl⟩ :=
      phaseD4_next h <;> exact hacc.frame (hph := .inr (by simp [hph]))

/-! ## The engines -/

/-- Outside the commit window a byte sent moves from what is still to send to what was sent. -/
theorem execTxsend_keeps_txAccount (hacc : TxAccount s) (hwin : s.canSend = true → s.ph ≠ .s5)
    (h : execTxsend s = .next t) : TxAccount t := by
  obtain ⟨-, ⟨hen, v, hv, rfl⟩ | ⟨-, -, rfl⟩ | ⟨-, rfl⟩⟩ := execTxsend_next h
  · obtain ⟨ha, hlt, -⟩ := (canSend_iff s).1 hen
    have hold := hacc.active ha
    rw [owed_of_ne_s5 (hwin hen), unsent_eq_cons hlt, hv, List.append_cons] at hold
    refine .of_active ha (hwin hen) ?_
    show (s.obs.wireOut ++ [v]).map some ++ _ = s.obs.accepted.map some
    rw [List.map_append]
    exact hold
  · exact hacc.frame
  · exact hacc

/-- A transfer completes with everything sent; in the commit window the engine has still the payload to send. -/
theorem execTxdone_keeps_txAccount (hi : Inv s) (hacc : TxAccount s) (h : execTxdone s = .next t) : TxAccount t := by
  obtain ⟨-, ⟨ha, hall, rfl⟩ | ⟨-, rfl⟩⟩ := execTxdone_next h
  · have hph : s.ph ≠ .s5 := fun hph => by
      have hwin := hacc.window hph ha
      have hext := hi.submit.extended hph ha
      have hpos := (hi.submit.count (by simp [hph])).1
      rw [hall] at hwin
      omega
    have hold := hacc.active ha
    rw [owed_of_ne_s5 hph, unsent_of_all_sent hall, List.append_nil] at hold
    exact .of_idle rfl (List.map_injective_iff.2 (Option.some_injective _) hold)
  · exact hacc

/-! ## Every instruction, and the step -/

/-- Every instruction but a TXSEND taken in the commit window keeps the account. -/
theorem exec_keeps_txAccount {i : Instr} (hi : Inv s) (hacc : TxAccount s)
    (hwin : i = .txsend → s.canSend = true → s.ph ≠ .s5) (h : exec i s = .next t) : TxAccount t := by
  cases i with
  | init | submit | drain | csenter | csexit | rdreg => exact exec_req_keeps_txAccount hi hacc rfl h
  | rxbyte b =>
    have hb : ∀ k < s.par.cTx, t.txbuf k = s.txbuf k := fun k hk => exec_txbuf hi h nofun hk
    obtain ⟨-, ⟨-, -, rfl⟩ | ⟨-, rfl⟩⟩ := execRxbyte_next h
    · exact hacc.frame (hb := fun _ k hk => hb k (hk.trans_le hi.tx.lenBound))
    · exact hacc
  | rxstart => obtain ⟨-, ⟨-, -, rfl⟩ | ⟨-, rfl⟩⟩ := execRxstart_next h <;> exact hacc.frame
  | txsend => exact execTxsend_keeps_txAccount hacc (hwin rfl) h
  | txdone => exact execTxdone_keeps_txAccount hi hacc h
  | irqtake => obtain ⟨-, ⟨-, -, rfl⟩ | ⟨-, rfl⟩⟩ := execIrqtake_next h <;> exact hacc.frame
  | seq => exact execSeq_keeps_txAccount hi hacc h

/-- The premise of rule R130 says of a label's turn that it is no TXSEND the engine takes at S5. -/
theorem ne_s5_of_sendsInCommitWindow {w : Word} (hwin : s.sendsInCommitWindow = false)
    (hs : s.sched.head? = some (.label w)) (hd : decodeLabel w = .ok .txsend) (hen : s.canSend = true) : s.ph ≠ .s5 := by
  obtain ⟨turns, hs⟩ := List.head?_eq_some_iff.1 hs
  intro hph
  simp [State.sendsInCommitWindow, hs, hd, hph, hen] at hwin

/-- Settles O29: the turn and the presentation are inputs, which the account does not read, and the instruction that runs keeps the
account; a command is no TXSEND, and a label's turn is none the premise excludes. -/
theorem everyStepKeepsExactlyOnce : Obligations.EveryStepKeepsExactlyOnce := by
  intro s t hi hacc hwin h
  obtain ⟨-, -, ⟨rfl, -⟩ | ⟨rfl, -⟩ | ⟨i, -, hreq, -, -, h⟩ | ⟨w, i, -, hs, hd, h⟩⟩ := step_next h
  · exact hacc
  · exact hacc.frame
  · exact exec_req_keeps_txAccount (s := takePresented (takeTurn s)) hi.of_unread hacc.frame hreq h
  · refine exec_keeps_txAccount (s := takeTurn s) hi.of_unread hacc.frame (fun htx hen => ?_) h
    subst htx
    exact ne_s5_of_sendsInCommitWindow (s := s) hwin hs hd hen

/-- The account says that the wire is the beginning of what is owed. -/
theorem TxAccount.wireOut_isPrefix_owed (hacc : TxAccount s) : s.obs.wireOut <+: s.owed := by
  rcases Bool.eq_false_or_eq_true s.txActive with ha | ha
  · obtain ⟨sent, rest, howed, hsent, -⟩ := List.append_eq_map_iff.1 (hacc.active ha)
    obtain rfl := List.map_injective_iff.2 (Option.some_injective _) hsent
    exact ⟨rest, howed.symm⟩
  · rw [hacc.idle ha, State.owed, if_neg (by simp [ha])]

/-- With `ARB_ATOMIC` the engine is held at S5, so its turn there sends nothing. -/
theorem sendsInCommitWindow_of_arbAtomic (h : s.par.arbAtomic = true) : s.sendsInCommitWindow = false := by
  have hheld : (s.ph == .s5 && s.canSend) = false := by
    refine Bool.eq_false_iff.2 fun hen => ?_
    simp only [Bool.and_eq_true, beq_iff_eq] at hen
    exact ((canSend_iff s).1 hen.2).2.2 ⟨h, hen.1⟩
  unfold State.sendsInCommitWindow
  split
  · rw [Bool.and_assoc, hheld, Bool.and_false]
  · rfl
  · rfl

/-- Settles O30: what is owed is the accepted payloads, at S5 with the payload in progress behind them. -/
theorem accountedWireIsTheAcceptedPayloads : Obligations.AccountedWireIsTheAcceptedPayloads := by
  intro s hacc
  have hpre := hacc.wireOut_isPrefix_owed
  refine ⟨?_, hacc.idle, fun hph => owed_of_ne_s5 hph ▸ hpre, sendsInCommitWindow_of_arbAtomic⟩
  rw [State.owed] at hpre
  split at hpre
  · exact hpre
  · exact hpre.trans ⟨s.opBytes, rfl⟩

end Sys2Proof.Machine
end

section
/-! SUPPORT. What SUBMIT's acceptance and each of its phases answer, and TXDONE, case by case (rules R120 to R128). -/

namespace Sys2Proof.Machine

variable {s : State}

/-! ## Acceptance -/

theorem execSubmit_idle (n : Len) (ps : List Byte) (hf : s.flt = .noFault) (hph : s.ph = .idle) (hc : s.cfg = true) :
    exec (.submit n ps) s = .next { s with opN := n, opBytes := ps, ph := .s1 } :=
  (accept_idle hf hph).trans (if_pos hc)

/-- Settles O17: acceptance at IDLE is the check of `cfg`. -/
theorem submitIsLatched : Obligations.SubmitIsLatched :=
  fun _ n ps hf hph => ⟨execSubmit_idle n ps hf hph, fun hc => (accept_idle hf hph).trans (if_neg (by simp [hc]))⟩

/-! ## S1 -/

theorem activeLength_of_active (ha : s.txActive = true) : s.activeLength = s.txLen := if_pos ha

theorem activeLength_of_idle (ha : s.txActive = false) : s.activeLength = 0 := if_neg (by simp [ha])

/-- Settles O22: with no transfer active the length register is 0 outside the fallback window (I6). -/
theorem activeLengthIsTheLengthRegister : Obligations.ActiveLengthIsTheLengthRegister := by
  refine fun s => ⟨activeLength_of_active, activeLength_of_idle, fun hi h5 h6 => ?_⟩
  rcases Bool.eq_false_or_eq_true s.txActive with ha | ha
  · exact activeLength_of_active ha
  · rw [activeLength_of_idle ha, hi.tx.idleLen ha h5 h6]

/-- A payload of `n` bytes has no room: it is larger than the buffer, or than what the live transfer leaves of it (rule R121). -/
def State.exceeds (s : State) (n : Len) : Prop :=
  s.par.cTx < n.toNat ∨ s.txActive = true ∧ s.par.cTx - s.txLen.toNat < n.toNat

theorem exec_seq_zeroLength (hf : s.flt = .noFault) (hph : s.ph = .s1) (h0 : s.opN.toNat = 0) :
    exec .seq s = .refused .zeroLength := by
  refine (execSeq_noFault hf).trans ?_
  simp only [seqPhase, hph, phaseS1, if_pos h0]

theorem exec_seq_exceeds (hf : s.flt = .noFault) (hph : s.ph = .s1) (hpos : 0 < s.opN.toNat) (h : s.exceeds s.opN) :
    exec .seq s = .next { s with ph := .idle, obs := { s.obs with rspLog := s.obs.rspLog ++ [⟨1, 0⟩] } } := by
  refine (execSeq_noFault hf).trans ?_
  simp only [seqPhase, hph, phaseS1, if_neg (Nat.ne_of_gt hpos)]
  split
  · rfl
  · rename_i hcap
    obtain ⟨ha, hroom⟩ := h.resolve_left hcap
    rw [activeLength_of_active ha, if_pos ⟨ha, hroom⟩]
    rfl

theorem exec_seq_fits (hf : s.flt = .noFault) (hph : s.ph = .s1) (hpos : 0 < s.opN.toNat) (h : ¬ s.exceeds s.opN) :
    exec .seq s = .next { s with sL := s.activeLength, ph := .s2 } := by
  refine (execSeq_noFault hf).trans ?_
  obtain ⟨hcap, hroom⟩ := not_or.1 h
  simp only [seqPhase, hph, phaseS1, if_neg (Nat.ne_of_gt hpos), if_neg hcap]
  refine if_neg fun ⟨ha, hlt⟩ => hroom ⟨ha, ?_⟩
  rwa [activeLength_of_active ha] at hlt

/-- Settles O18: the count is 0, or has no room, or fits behind the active length. -/
theorem phaseS1ChecksCapacityAndSamples : Obligations.PhaseS1ChecksCapacityAndSamples := by
  refine fun s hf hph => ⟨exec_seq_zeroLength hf hph, fun h => ?_, fun hpos hcap ha hroom => ?_, fun hpos hcap ha => ?_⟩
  · exact exec_seq_exceeds hf hph (by omega) (h.imp id fun ⟨_, hroom⟩ => hroom)
  · rw [exec_seq_fits hf hph hpos (by simp [State.exceeds, hcap, hroom]), activeLength_of_active ha]
  · rw [exec_seq_fits hf hph hpos (by simp [State.exceeds, hcap, ha]), activeLength_of_idle ha]

/-- Settles O23: S1 answers a payload without room from the state SUBMIT was presented in, its latches written. -/
theorem failedSubmitLeavesTheStateUnchanged : Obligations.FailedSubmitLeavesTheStateUnchanged := by
  intro s n ps hf hph hc hpos h
  refine ⟨_, execSubmit_idle n ps hf hph hc, ?_⟩
  rw [exec_seq_exceeds (s := { s with opN := n, opBytes := ps, ph := .s1 }) hf rfl hpos h, hph]

/-! ## S2 to S6 -/

theorem txAddr_add (p : Params) (off k : Nat) : txAddr p (off + k) = txAddr p off + k := (Nat.add_assoc _ _ _).symm

theorem exec_seq_s2 (hf : s.flt = .noFault) (hph : s.ph = .s2) (hl : s.opBytes.length = s.opN.toNat)
    (hb : s.sL.toNat + s.opN.toNat ≤ s.par.cTx) :
    exec .seq s = .next { storeRun (txAddr s.par s.sL.toNat) s.opBytes s with ph := .s3 } := by
  refine (execSeq_noFault hf).trans ?_
  simp only [seqPhase, hph, phaseS2]
  exact copyPayload_fits hl hb

/-- Settles O19: the stored run is read back, and every address outside it reads as before. -/
theorem phaseS2CopiesBehindTheWindow : Obligations.PhaseS2CopiesBehindTheWindow := by
  refine fun s hf hph hl hb => ⟨_, exec_seq_s2 hf hph hl hb, rfl, fun k hk => ?_, fun a ha => ?_⟩
  · rw [txAddr_add]; exact read_writeRun_inside _ _ _ _ hk
  · exact read_writeRun_outside _ _ (hl ▸ ha)

theorem exec_seq_s3 (hf : s.flt = .noFault) (hph : s.ph = .s3) :
    exec .seq s = .next { s with csSaved := s.irqMask, irqMask := true, ph := .s4 } := by
  refine (execSeq_noFault hf).trans ?_
  simp only [seqPhase, hph]; rfl

theorem exec_seq_s4 (hf : s.flt = .noFault) (hph : s.ph = .s4) :
    exec .seq s = .next { s with txLen := len (s.sL.toNat + s.opN.toNat), ph := .s5 } := by
  refine (execSeq_noFault hf).trans ?_
  simp only [seqPhase, hph]; rfl

theorem exec_seq_s5_active (hf : s.flt = .noFault) (hph : s.ph = .s5) (ha : s.txActive = true) :
    exec .seq s = .next { s with
      irqMask := s.csSaved, ph := .idle
      obs := { s.obs with accepted := s.obs.accepted ++ s.opBytes, rspLog := s.obs.rspLog ++ [⟨0, 0⟩] } } := by
  refine (execSeq_noFault hf).trans ?_
  simp only [seqPhase, hph]
  exact if_pos ha

theorem exec_seq_s5_idle (hf : s.flt = .noFault) (hph : s.ph = .s5) (ha : s.txActive = false) :
    exec .seq s = .next { s with irqMask := s.csSaved, ph := .s6 } := by
  refine (execSeq_noFault hf).trans ?_
  simp only [seqPhase, hph]
  exact if_neg (by simp [ha])

/-- Settles O20: S3, S4 and the two branches of S5. -/
theorem commitPhases : Obligations.CommitPhases := fun _ hf =>
  ⟨exec_seq_s3 hf, fun hph hlt => ⟨_, len_toNat hlt, exec_seq_s4 hf hph⟩, exec_seq_s5_active hf, exec_seq_s5_idle hf⟩

theorem exec_seq_s6 (hf : s.flt = .noFault) (hph : s.ph = .s6) (hl : s.opBytes.length = s.opN.toNat)
    (hb : s.opN.toNat ≤ s.par.cTx) :
    exec .seq s = .next { storeRun (txAddr s.par 0) s.opBytes s with
      txLen := s.opN, txSent := 0, txActive := true, ph := .idle
      obs := { s.obs with accepted := s.obs.accepted ++ s.opBytes, rspLog := s.obs.rspLog ++ [⟨0, 0⟩] } } := by
  refine (execSeq_noFault hf).trans ?_
  simp only [seqPhase, hph, phaseS6]
  exact copyPayload_fits hl (by omega)

/-- Settles O21: the run stored from the origin is read back, and every address outside it reads as before. -/
theorem phaseS6RestartsFromTheOrigin : Obligations.PhaseS6RestartsFromTheOrigin := by
  refine fun s hf hph hl hb => ⟨_, exec_seq_s6 hf hph hl hb, rfl, fun k hk => ?_, fun a ha => ?_⟩
  · have haddr : txAddr s.par k = txAddr s.par 0 + k := by rw [← txAddr_add, Nat.zero_add]
    rw [haddr]
    exact read_writeRun_inside _ _ _ _ hk
  · exact read_writeRun_outside _ _ (hl ▸ ha)

/-! ## TXDONE -/

/-- Settles O27: TXDONE is enabled exactly where everything of a live transfer was sent. -/
theorem txdoneCompletesTheTransfer : Obligations.TxdoneCompletesTheTransfer := by
  refine fun s hf => ⟨fun ha hall => stepWhen_enabled hf ?_, fun h => exec_hold hf ?_⟩
  · simp [State.canComplete, ha, hall]
  · exact .inr (.inr (.inr (.inl ⟨rfl, h⟩)))

end Sys2Proof.Machine
end

section
/-! SUPPORT. Exactly when an instruction is refused (rule R203): which of the shared operations and phases refuse, and why. -/

namespace Sys2Proof.Machine

variable {s : State} {k : Result} {e : Refusal}

theorem next_ne_refused : (.next s : Result) ≠ .refused e := nofun

/-! ## The shared operations -/

/-- A refusal is that of an enabled agent's step: a hold and a recorded fault are none. -/
theorem stepWhen_refused {en : Bool} (h : stepWhen en s k = .refused e) :
    s.flt = .noFault ∧ en = true ∧ k = .refused e := by
  obtain ⟨hf, h⟩ := unlessFaulted_refused h
  cases en with
  | true => exact ⟨hf, rfl, h⟩
  | false => cases h

theorem accept_refused (h : accept s k = .refused e) : s.flt = .noFault ∧ s.ph = .idle ∧ k = .refused e := by
  obtain ⟨hf, hidle, h⟩ := stepWhen_refused h
  exact ⟨hf, by simpa using hidle, h⟩

theorem stepWhen_ne_refused {en : Bool} (hk : k ≠ .refused e) : stepWhen en s k ≠ .refused e :=
  fun h => hk (stepWhen_refused h).2.2

theorem accept_ne_refused (hk : k ≠ .refused e) : accept s k ≠ .refused e := stepWhen_ne_refused hk

theorem requireCfg_ne_refused {opc : Nat} (hk : k ≠ .refused e) : requireCfg opc s k ≠ .refused e := by
  unfold requireCfg
  split
  · exact hk
  · nofun

theorem memRead_ne_refused {a : Nat} {f : Byte → Result} (hf : ∀ v, f v ≠ .refused e) : memRead a s f ≠ .refused e := by
  unfold memRead
  split
  · split
    · exact hf _
    · nofun
  · nofun

theorem memWrite_ne_refused {a : Nat} {v : Byte} {f : State → Result} (hf : ∀ u, f u ≠ .refused e) :
    memWrite a v s f ≠ .refused e := by
  unfold memWrite
  split
  · exact hf _
  · nofun

theorem copyPayload_ne_refused {off : Nat} {f : State → Result} (hf : ∀ u, f u ≠ .refused e) :
    copyPayload off s f ≠ .refused e := by
  unfold copyPayload
  split
  · split
    · exact hf _
    · nofun
  · nofun

theorem withCursor_ne_refused {v : Nat} {f : Len → Result} (hf : ∀ c, f c ≠ .refused e) :
    withCursor v s f ≠ .refused e := by
  unfold withCursor
  split
  · exact hf _
  · nofun

theorem withChannelCursor_ne_refused {a : Nat} {f : Len → Result} (hf : ∀ c, f c ≠ .refused e) :
    withChannelCursor a s f ≠ .refused e := by
  unfold withChannelCursor
  split
  · exact withCursor_ne_refused hf
  · nofun

/-! ## The sequencer's phases -/

/-- S1 refuses a count of 0, and nothing else. -/
theorem phaseS1_refused (h : phaseS1 s = .refused e) : s.opN = 0 ∧ e = .zeroLength := by
  unfold phaseS1 at h
  split at h
  · rename_i h0
    exact ⟨Len.ext h0, by injection h.symm⟩
  · split at h
    · cases h
    · split at h <;> cases h

theorem phaseS5_ne_refused : phaseS5 s ≠ .refused e := by
  unfold phaseS5
  split <;> nofun

theorem phaseD1_ne_refused : phaseD1 s ≠ .refused e := by
  unfold phaseD1
  split
  · nofun
  split
  · exact withCursor_ne_refused fun _ => next_ne_refused
  · nofun

theorem phaseD3_ne_refused : phaseD3 s ≠ .refused e := by
  unfold phaseD3
  split
  · nofun
  split <;> nofun

theorem phaseD4_ne_refused : phaseD4 s ≠ .refused e := by
  unfold phaseD4
  split
  · exact memRead_ne_refused fun _ => next_ne_refused
  split
  · exact withCursor_ne_refused fun _ => next_ne_refused
  · exact withCursor_ne_refused fun _ => next_ne_refused

/-- The sequencer refuses a count of 0 at S1, and a phase no rule writes. -/
theorem seqPhase_refused (h : seqPhase s = .refused e) :
    s.ph = .s1 ∧ s.opN = 0 ∧ e = .zeroLength ∨ s.ph.legal = false ∧ e = .reservedPhase := by
  cases hph : s.ph <;> simp only [seqPhase, hph] at h
  case s1 => exact .inl ⟨rfl, phaseS1_refused h⟩
  case s2 => exact absurd h (copyPayload_ne_refused fun _ => next_ne_refused)
  case s5 => exact absurd h phaseS5_ne_refused
  case s6 => exact absurd h (copyPayload_ne_refused fun _ => next_ne_refused)
  case d1 => exact absurd h phaseD1_ne_refused
  case d2 => exact absurd h (withChannelCursor_ne_refused fun _ => next_ne_refused)
  case d3 => exact absurd h phaseD3_ne_refused
  case d4 => exact absurd h phaseD4_ne_refused
  case idle | s3 | s4 => cases h
  case reserved7 | reserved12 | reserved13 | reserved14 | reserved15 => exact .inr ⟨rfl, by injection h.symm⟩

theorem seqPhase_reserved (h : s.ph.legal = false) : seqPhase s = .refused .reservedPhase := by
  cases hph : s.ph <;> simp only [seqPhase, hph]
  all_goals rw [hph] at h; cases h

/-! ## Every instruction -/

theorem execInit_refused (h : execInit s = .refused e) :
    s.flt = .noFault ∧ s.ph = .idle ∧ s.cfg = true ∧ e = .doubleInit := by
  obtain ⟨hf, hph, h⟩ := accept_refused h
  split at h
  · rename_i hc
    exact ⟨hf, hph, hc, by injection h.symm⟩
  · cases h

theorem execSeq_refused (h : execSeq s = .refused e) : s.flt = .noFault ∧
    (s.ph = .s1 ∧ s.opN = 0 ∧ e = .zeroLength ∨ s.ph.legal = false ∧ e = .reservedPhase) := by
  rw [execSeq_eq] at h
  exact (unlessFaulted_refused h).imp id seqPhase_refused

/-- Instructions other than INIT and SEQ are never refused. -/
theorem exec_ne_refused {i : Instr} (hinit : i ≠ .init) (hseq : i ≠ .seq) : exec i s ≠ .refused e := by
  cases i with
  | init => exact absurd rfl hinit
  | seq => exact absurd rfl hseq
  | submit | drain => exact accept_ne_refused (requireCfg_ne_refused next_ne_refused)
  | csenter | csexit | rdreg => exact accept_ne_refused next_ne_refused
  | rxbyte b => exact stepWhen_ne_refused (memWrite_ne_refused fun _ => next_ne_refused)
  | txsend => exact stepWhen_ne_refused (memRead_ne_refused fun _ => next_ne_refused)
  | rxstart | txdone | irqtake => exact stepWhen_ne_refused next_ne_refused

/-- Settles O49: what a refusal of INIT or SEQ says, and each of the three refusals. -/
theorem refusalsAreExactly : Obligations.RefusalsAreExactly := by
  refine fun i s e => ⟨fun h => ?_, ?_⟩
  · by_cases hinit : i = .init
    · subst hinit
      obtain ⟨hf, hwhy⟩ := execInit_refused h
      exact ⟨hf, .inl ⟨rfl, hwhy⟩⟩
    by_cases hseq : i = .seq
    · subst hseq
      obtain ⟨hf, hwhy⟩ := execSeq_refused h
      exact ⟨hf, .inr (hwhy.imp (fun hz => ⟨rfl, hz⟩) fun hr => ⟨rfl, hr⟩)⟩
    · exact absurd h (exec_ne_refused hinit hseq)
  · rintro ⟨hf, ⟨rfl, hph, hc, rfl⟩ | ⟨rfl, hph, h0, rfl⟩ | ⟨rfl, hph, rfl⟩⟩
    · exact (accept_idle hf hph).trans (if_pos hc)
    · exact exec_seq_zeroLength hf hph (by rw [h0]; rfl)
    · exact (execSeq_noFault hf).trans (seqPhase_reserved hph)

end Sys2Proof.Machine
end

section
/-! SUPPORT. The progress of a SUBMIT (rules R132, R255). -/

namespace Sys2Proof.Machine

variable {s t : State}

/-- Each phase of a SUBMIT leads to a later one or to IDLE. -/
theorem seqPhase_stepsLeft_lt (hph : s.ph.inSubmit = true) (h : seqPhase s = .next t) : t.stepsLeft < s.stepsLeft := by
  obtain ⟨hp, -⟩ | ⟨hp, h⟩ | ⟨hp, h⟩ | ⟨hp, h⟩ | ⟨hp, h⟩ | ⟨hp, h⟩ | ⟨hp, h⟩ | ⟨hp, -⟩ | ⟨hp, -⟩ | ⟨hp, -⟩ | ⟨hp, -⟩ :=
    seqPhase_next h
  case inl => rw [hp] at hph; cases hph
  · obtain ⟨-, rfl | ⟨-, -, rfl⟩⟩ := phaseS1_next h <;> simp [State.stepsLeft, hp, respondCapacityExceeded]
  · obtain ⟨-, rfl⟩ := phaseS2_next h; simp [State.stepsLeft, hp]
  · obtain rfl := phaseS3_next h; simp [State.stepsLeft, hp]
  · obtain rfl := phaseS4_next h; simp [State.stepsLeft, hp]
  · obtain ⟨-, rfl⟩ | ⟨-, rfl⟩ := phaseS5_next h <;> simp [State.stepsLeft, hp]
  · obtain ⟨-, rfl⟩ := phaseS6_next h; simp [State.stepsLeft, hp]
  all_goals rw [hp] at hph; cases hph

theorem stepsLeft_le_of_inSubmit (hph : s.ph.inSubmit = true) : s.stepsLeft ≤ 6 := by
  revert hph
  unfold State.stepsLeft
  cases s.ph <;> simp [Phase.inSubmit]

/-- In a state that meets the invariants the sequencer has a step, a count of 0 at S1 apart. -/
theorem exec_seq_answers (hi : Inv s) (hf : s.flt = .noFault) (hpos : s.ph = .s1 → 0 < s.opN.toNat) :
    ∃ t, exec .seq s = .next t := by
  cases h : exec .seq s with
  | next t => exact ⟨t, rfl⟩
  | fault r => exact absurd h (exec_ne_fault hi hf)
  | refused e =>
    obtain ⟨-, ⟨hph, h0, -⟩ | ⟨hres, -⟩⟩ := execSeq_refused h
    · have := hpos hph
      rw [h0] at this; cases this
    · rw [hi.legal] at hres; cases hres

/-- While a command is in progress no agent but the sequencer moves its phase, its latched count or the steps left. -/
theorem exec_keeps_progress {i : Instr} (hi : agentOf i ≠ .seq) (hbusy : s.ph ≠ .idle) (h : exec i s = .next t) :
    t.ph = s.ph ∧ t.opN = s.opN ∧ t.stepsLeft = s.stepsLeft := by
  cases ha : agentOf i with
  | req =>
    rw [exec_command_busy ha (exec_next_noFault h) hbusy] at h
    cases h
    exact ⟨rfl, rfl, rfl⟩
  | seq => exact absurd ha hi
  | txe => rw [(exec_txe_writes ha h).1]; exact ⟨rfl, rfl, rfl⟩
  | rxe => rw [exec_rxe_writes ha h]; exact ⟨rfl, rfl, rfl⟩
  | irq => rw [(exec_irq_writes ha h).1]; exact ⟨rfl, rfl, rfl⟩

/-- Settles O25: the sequencer's step is neither a fault nor a refusal, and it goes on to a later phase. -/
theorem submitNeverBlocks : Obligations.SubmitNeverBlocks := by
  intro s hi hf hph
  have hin : s.ph.inSubmit = true := by
    obtain ⟨h, -⟩ | h | h | h | h | h := hph <;> rw [h] <;> rfl
  have hpos : s.ph = .s1 → 0 < s.opN.toNat := fun h1 => by simpa [h1] using hph
  have hbusy : s.ph ≠ .idle := fun h => by rw [h] at hin; cases hin
  obtain ⟨t, h⟩ := exec_seq_answers hi hf hpos
  obtain ⟨-, hseq⟩ := execSeq_next h
  exact ⟨stepsLeft_le_of_inSubmit hin, ⟨t, h, (seqPhase_flt hi hseq).trans hf, seqPhase_stepsLeft_lt hin hseq⟩,
    fun i u hne hu => exec_keeps_progress hne hbusy hu⟩

end Sys2Proof.Machine
end

section
/-! SUPPORT. SUBMIT run with no other agent's step inside it (rules R99, R136), and the run that sends a byte of the commit window twice
(rules R129, R246). -/

namespace Sys2Proof.Machine

variable {s t : State} {n : Len} {ps : List Byte}

/-! ## Sequencer steps in a row -/

theorem runSeq_succ {k : Nat} {r : Result} (h : exec .seq s = .next t) (hrun : runSeq k t = r) : runSeq (k + 1) s = r := by
  simp only [runSeq, h, hrun]

theorem runSeq_idle (k : Nat) (hf : s.flt = .noFault) (hph : s.ph = .idle) : runSeq k s = .next s := by
  induction k with
  | zero => rfl
  | succ k ih => exact runSeq_succ (execSeq_hold hf (.inl hph)) ih

theorem runCommand_submit (k : Nat) (hf : s.flt = .noFault) (hph : s.ph = .idle) (hc : s.cfg = true) :
    runCommand (.submit n ps) k s = runSeq k { s with opN := n, opBytes := ps, ph := .s1 } := by
  simp only [runCommand, execSubmit_idle n ps hf hph hc]

/-! ## The run of a SUBMIT -/

theorem runCommand_submit_zeroLength (hf : s.flt = .noFault) (hph : s.ph = .idle) (hc : s.cfg = true) (h0 : n.toNat = 0) :
    runCommand (.submit n ps) 6 s = .refused .zeroLength := by
  rw [runCommand_submit 6 hf hph hc, runSeq, exec_seq_zeroLength (by exact hf) rfl h0]

theorem runCommand_submit_exceeds (hf : s.flt = .noFault) (hph : s.ph = .idle) (hc : s.cfg = true) (hpos : 0 < n.toNat)
    (h : s.exceeds n) : runCommand (.submit n ps) 6 s = .next (respond 1 0 { s with opN := n, opBytes := ps }) := by
  obtain ⟨t, hsub, hseq⟩ := failedSubmitLeavesTheStateUnchanged s n ps hf hph hc hpos h
  simp only [runCommand, hsub]
  exact runSeq_succ hseq (runSeq_idle 5 hf hph)

/-- The state in which a SUBMIT with room comes to S5 with no other agent's step before. -/
def State.committed (n : Len) (ps : List Byte) (s : State) : State :=
  { storeRun (txAddr s.par s.activeLength.toNat) ps s with
    opN := n, opBytes := ps, sL := s.activeLength, csSaved := s.irqMask, irqMask := true
    txLen := len (s.activeLength.toNat + n.toNat), ph := .s5 }

theorem TxInv.activeLength_add_le (hi : TxInv s) (h : ¬ s.exceeds n) : s.activeLength.toNat + n.toNat ≤ s.par.cTx := by
  obtain ⟨hcap, hroom⟩ := not_or.1 h
  rcases Bool.eq_false_or_eq_true s.txActive with ha | ha
  · have hlen := hi.lenBound
    have hle : ¬ s.par.cTx - s.txLen.toNat < n.toNat := fun hlt => hroom ⟨ha, hlt⟩
    rw [activeLength_of_active ha]
    omega
  · rw [activeLength_of_idle ha]
    show 0 + _ ≤ _
    omega

/-- A payload with room is stored behind the window, and the window extended over it, by S1 to S4. -/
theorem runCommand_submit_commits (k : Nat) (hi : Inv s) (hf : s.flt = .noFault) (hph : s.ph = .idle) (hc : s.cfg = true)
    (hl : ps.length = n.toNat) (hpos : 0 < n.toNat) (h : ¬ s.exceeds n) :
    runCommand (.submit n ps) (k + 4) s = runSeq k (s.committed n ps) := by
  have hroom := hi.tx.activeLength_add_le h
  rw [runCommand_submit _ hf hph hc]
  refine runSeq_succ (exec_seq_fits hf rfl hpos h) ?_
  refine runSeq_succ (exec_seq_s2 hf rfl hl hroom) ?_
  refine runSeq_succ (exec_seq_s3 hf rfl) ?_
  exact runSeq_succ (exec_seq_s4 hf rfl) rfl

/-- With a transfer active S5 ends the SUBMIT. -/
theorem runCommand_submit_active (hi : Inv s) (hf : s.flt = .noFault) (hph : s.ph = .idle) (hc : s.cfg = true)
    (hl : ps.length = n.toNat) (hpos : 0 < n.toNat) (h : ¬ s.exceeds n) (ha : s.txActive = true) :
    runCommand (.submit n ps) 6 s =
      .next (respondSubmitted { s.committed n ps with irqMask := s.irqMask, ph := .idle }) := by
  refine (runCommand_submit_commits 2 hi hf hph hc hl hpos h).trans ?_
  exact runSeq_succ (exec_seq_s5_active hf rfl ha) (runSeq_idle 1 hf rfl)

/-- With none active S5 goes on to S6, which restarts from the origin. -/
theorem runCommand_submit_restarts (hi : Inv s) (hf : s.flt = .noFault) (hph : s.ph = .idle) (hc : s.cfg = true)
    (hl : ps.length = n.toNat) (hpos : 0 < n.toNat) (h : ¬ s.exceeds n) (ha : s.txActive = false) :
    runCommand (.submit n ps) 6 s = .next (respondSubmitted { storeRun (txAddr s.par 0) ps (s.committed n ps) with
      irqMask := s.irqMask, txLen := n, txSent := 0, txActive := true, ph := .idle }) := by
  refine (runCommand_submit_commits 2 hi hf hph hc hl hpos h).trans ?_
  have hcap : n.toNat ≤ s.par.cTx := Nat.not_lt.1 (not_or.1 h).1
  exact runSeq_succ (exec_seq_s5_idle hf rfl ha) (runSeq_succ (exec_seq_s6 hf rfl hl hcap) (runSeq_idle 0 hf rfl))

/-! ## `submit_atomic` -/

theorem submitAtomic_exceeds (hl : ps.length = n.toNat) (hpos : 0 < n.toNat) (h : s.exceeds n) :
    submitAtomic ps s = .next (respond 1 0 s) := by
  simp only [submitAtomic, hl, if_neg (Nat.ne_of_gt hpos)]
  split
  · rfl
  · rename_i hcap
    obtain ⟨ha, hroom⟩ := h.resolve_left hcap
    simp only [ha, if_pos hroom, if_true]

theorem submitAtomic_active (hl : ps.length = n.toNat) (hpos : 0 < n.toNat) (h : ¬ s.exceeds n) (ha : s.txActive = true) :
    submitAtomic ps s = .next (submitted (txAddr s.par s.txLen.toNat) ps
      { s with txLen := len (s.txLen.toNat + ps.length) }) := by
  obtain ⟨hcap, hroom⟩ := not_or.1 h
  rw [submitAtomic, if_neg (by omega), if_neg (by omega), if_pos ha, if_neg fun hlt => hroom ⟨ha, hl ▸ hlt⟩]

theorem submitAtomic_restarts (hl : ps.length = n.toNat) (hpos : 0 < n.toNat) (h : ¬ s.exceeds n) (ha : s.txActive = false) :
    submitAtomic ps s = .next (submitted (txAddr s.par 0) ps
      { s with txLen := len ps.length, txSent := 0, txActive := true }) := by
  obtain ⟨hcap, -⟩ := not_or.1 h
  rw [submitAtomic, if_neg (by omega), if_neg (by omega), if_neg (by simp [ha])]

/-- Storing the same bytes at the same address again changes nothing. -/
theorem writeRun_writeRun_same {m : Memory} (hm : m.wf) (a : Nat) (vs : List Byte) :
    (m.writeRun a vs).writeRun a vs = m.writeRun a vs := by
  refine Memory.eq_of_read (writeRun_wf _ _ (writeRun_wf _ _ hm)) (writeRun_wf _ _ hm) fun b => ?_
  simp only [read_writeRun]
  split <;> rfl

/-- Settles O24: a payload has no room, or goes behind the live window, or starts a transfer, where S6 stores again what S2 stored. -/
theorem submitRunsAsSubmitAtomic : Obligations.SubmitRunsAsSubmitAtomic := by
  intro s n ps hi hf hph hc hl
  refine ⟨fun h0 => runCommand_submit_zeroLength hf hph hc (hl ▸ h0), fun hpos => ?_⟩
  rw [hl] at hpos
  by_cases h : s.exceeds n
  · exact ⟨_, _, submitAtomic_exceeds hl hpos h, runCommand_submit_exceeds hf hph hc hpos h, rfl⟩
  rcases Bool.eq_false_or_eq_true s.txActive with ha | ha
  · refine ⟨_, _, submitAtomic_active hl hpos h ha, runCommand_submit_active hi hf hph hc hl hpos h ha, ?_⟩
    simp [State.lessSubmit, State.committed, submitted, activeLength_of_active ha, hph, hl]
  · refine ⟨_, _, submitAtomic_restarts hl hpos h ha, runCommand_submit_restarts hi hf hph hc hl hpos h ha, ?_⟩
    simp [State.lessSubmit, State.committed, submitted, activeLength_of_idle ha, hph, hl, writeRun_writeRun_same hi.memWf]

/-! ## The duplicate run -/

/-- Settles O28: the engine sends the one byte S4 appended and completes before S5 reads `tx_active`, so S6 starts a transfer of that
byte again. -/
theorem commitWindowAdmitsADuplicate : Obligations.CommitWindowAdmitsADuplicate := by
  intro s v hi hf hph ha harb hv hat hread
  have hl : s.opBytes.length = s.opN.toNat := hi.submit.payload (by rw [hph]; rfl)
  have hlast : s.txSent.toNat + 1 = s.txLen.toNat := by
    rw [hi.submit.extended hph ha, ← hl, hv, hat]; rfl
  obtain ⟨hsend, -⟩ := txsendSendsTheNextByte s hf hi.tx.lenBound
  obtain ⟨hsend, -⟩ := hsend ha (by omega) (by simp [harb])
  obtain ⟨k, hk, h₁⟩ := hsend v (by rw [hat]; exact hread)
  have h₂ := (txdoneCompletesTheTransfer { s with txSent := k, obs := { s.obs with wireOut := s.obs.wireOut ++ [v] } } hf).1 ha
    (Len.ext (hk.trans hlast))
  refine ⟨_, _, _, _, h₁, h₂, exec_seq_s5_idle hf hph rfl,
    exec_seq_s6 hf rfl hl (hi.submit.count (by simp [hph])).2, rfl, rfl, rfl, ?_, ?_⟩
  · exact congrArg (s.obs.accepted ++ ·) hv
  · rw [show [some v] = s.opBytes.map some by rw [hv]; rfl]
    exact unsent_restarted hl rfl rfl rfl

end Sys2Proof.Machine
end

section
/-! SUPPORT. DRAIN's acceptance and phase D1, RXSTART, and the arithmetic of cursors (rules R151, R152, R154, R155, R159). -/

namespace Sys2Proof.Machine

variable {s : State}

/-! ## Acceptance, D1 and RXSTART -/

theorem execDrain_idle (hf : s.flt = .noFault) (hph : s.ph = .idle) (hc : s.cfg = true) :
    exec .drain s = .next { s with ph := .d1 } :=
  (accept_idle hf hph).trans (if_pos hc)

/-- Settles O31: acceptance at IDLE is the check of `cfg`. -/
theorem drainIsAccepted : Obligations.DrainIsAccepted :=
  fun _ hf hph => ⟨execDrain_idle hf hph, fun hc => (accept_idle hf hph).trans (if_neg (by simp [hc]))⟩

/-- Settles O32: a valid cursor, the first call on a started channel, where the origin is a cursor, and the hold before the start. -/
theorem phaseD1InitializesTheCursor : Obligations.PhaseD1InitializesTheCursor := by
  intro s hp hf hph
  obtain ⟨-, -, hcRx, -⟩ := (paramsOk_iff _).1 hp
  have hseq : exec .seq s = phaseD1 s := (execSeq_noFault hf).trans (by simp only [seqPhase, hph])
  refine ⟨fun hv => ?_, fun hv hst => ?_, fun hv hst => execSeq_hold hf (.inr ⟨hph, hv, hst⟩)⟩
  · rw [hseq, phaseD1, if_pos hv]
  · rw [hseq, phaseD1, if_neg (by simp [hv]), if_pos hst, withCursor_of_lt (by omega)]; rfl

/-- Settles O38: the signal's condition is `cfg` without `rx_started`. -/
theorem rxstartSignalsTheStart : Obligations.RxstartSignalsTheStart :=
  fun _ hf => ⟨fun hc hst => stepWhen_enabled hf (by simp [hc, hst]),
    fun h => exec_hold hf (.inr (.inr (.inr (.inr (.inl ⟨rfl, h⟩)))))⟩

/-! ## Cursors -/

theorem unread_lt {p : Params} {w r : Nat} (hw : w < p.cRx) : unread p w r < p.cRx := by
  rw [unread]; split <;> omega

/-- The unread count is the difference of the cursors modulo `C_rx`: whether it is negative or not (rule R152). -/
theorem unread_eq_emod {p : Params} {w r : Nat} (hw : w < p.cRx) (hr : r < p.cRx) :
    (unread p w r : Int) = ((w : Int) - r) % p.cRx := by
  rw [unread]
  split
  · rw [Int.emod_eq_of_lt (by omega) (by omega)]; omega
  · rw [← Int.add_emod_right, Int.emod_eq_of_lt (by omega) (by omega)]; omega

/-- Settles O42, clause by clause; the last one is `advance_unread`. -/
theorem cursorArithmetic : Obligations.CursorArithmetic := by
  intro p w r k hp hw hr
  refine ⟨Nat.mod_lt _ (by omega), rfl, ?_, unread_lt hw, unread_eq_emod hw hr, fun heq => ?_, fun hlt => ?_, fun hlt => ?_,
    advance_unread hw hr⟩
  · rw [advance, Nat.sub_add_cancel (by omega), Nat.mod_self]
  · rw [unread, if_pos heq.ge, heq, Nat.sub_self]
  · rw [unread, if_pos hlt.le]
  · rw [unread, if_neg (Nat.not_le.2 hlt)]

end Sys2Proof.Machine
end

section
/-! SUPPORT. The progress of a DRAIN (rules R163, R255). -/

namespace Sys2Proof.Machine

variable {s t : State}

/-- What D4 can do in a state that meets the invariants: copy a byte, end the command, or go on from the tail run to the head run. -/
theorem Inv.phaseD4_cases (hi : Inv s) (hph : s.ph = .d4) (h : phaseD4 s = .next t) :
    s.dptr.toNat < s.dend.toNat ∧ (∃ v, s.rxbuf s.dptr.toNat = some v ∧
        t = emitDrain v { s with dptr := len (s.dptr.toNat + 1), dcnt := len (s.dcnt.toNat + 1) }) ∨
      s.dptr = s.dend ∧ s.dend = s.snap ∧ t = respondDrain s.dcnt { s with rcur := s.snap, ph := .idle } ∨
      s.dptr = s.dend ∧ s.dend ≠ s.snap ∧ t = { s with rcur := 0, dptr := 0, dend := s.snap } := by
  have hsnap := hi.rx.snapBound (.inr hph)
  have hend : s.dend.toNat ≤ s.dptr.toNat → s.dptr = s.dend := fun hge => Len.ext (le_antisymm (hi.rx.runPtr hph) hge)
  obtain hcopy | ⟨hlt, hnone, -⟩ | ⟨hge, he, -, rfl⟩ | ⟨-, -, hbad, -⟩ | ⟨hge, hne, -, rfl⟩ | ⟨-, -, h0, -⟩ :=
    phaseD4_next h
  · exact .inl hcopy
  · have hsome := hi.isSome_rxbuf_dptr hph hlt
    rw [hnone] at hsome; cases hsome
  · exact .inr (.inl ⟨hend hge, he, rfl⟩)
  · omega
  · exact .inr (.inr ⟨hend hge, hne, rfl⟩)
  · omega

/-- Where D4's run ends, as a number. -/
theorem Inv.dend_le (hi : Inv s) (hph : s.ph = .d4) : s.dend.toNat ≤ s.par.cRx := by
  have hsnap := hi.rx.snapBound (.inr hph)
  rcases hi.rx.runEnd hph with he | he <;> rw [he]
  omega

theorem dptr_succ_toNat (hlt : s.dptr.toNat < s.dend.toNat) :
    (len (s.dptr.toNat + 1)).toNat = s.dptr.toNat + 1 :=
  len_toNat (by have := s.dend.isLt; omega)

/-- A DRAIN at D4 has at most `C_rx - 1` bytes and two closing steps left. -/
theorem Inv.stepsLeft_d4_le (hi : Inv s) (hph : s.ph = .d4) : s.stepsLeft ≤ s.par.cRx + 1 := by
  have hcount := hi.rx.runCount hph
  simp only [State.stepsLeft, hph]
  split <;> omega

/-- Each step of D4 copies one of the bytes left, or closes a run. -/
theorem Inv.phaseD4_stepsLeft_lt (hi : Inv s) (hph : s.ph = .d4) (h : phaseD4 s = .next t) : t.stepsLeft < s.stepsLeft := by
  obtain ⟨hlt, v, -, rfl⟩ | ⟨-, he, rfl⟩ | ⟨hend, hne, rfl⟩ := hi.phaseD4_cases hph h
  · have hptr := dptr_succ_toNat hlt
    have hend := hi.dend_le hph
    by_cases he : s.dend = s.snap
    · rw [he] at hlt
      simp only [State.stepsLeft, State.runLeft, emitDrain_ph, emitDrain_dend, emitDrain_snap, emitDrain_dptr, hph, hptr, if_pos he]
      omega
    · simp only [State.stepsLeft, State.runLeft, emitDrain_ph, emitDrain_dend, emitDrain_snap, emitDrain_dptr, emitDrain_par, hph,
        hptr, if_neg he]
      omega
  · simp [State.stepsLeft, hph, he]
  · simp only [State.stepsLeft, State.runLeft, hph, if_neg hne, if_true]
    show s.snap.toNat - 0 + 1 < _
    omega

/-- Each phase of a DRAIN but the hold of its first call leads nearer to IDLE. -/
theorem seqPhase_drain_stepsLeft_lt (hi : Inv s) (hph : s.ph = .d1 ∨ s.ph = .d2 ∨ s.ph = .d3 ∨ s.ph = .d4)
    (hstart : ¬ (s.ph = .d1 ∧ s.rcurValid = false ∧ s.rxStarted = false)) (h : seqPhase s = .next t) :
    t.stepsLeft < s.stepsLeft := by
  obtain ⟨-, -, hcRx, -, hs, -⟩ := (paramsOk_iff _).1 hi.params
  obtain hph | hph | hph | hph := hph <;> simp only [seqPhase, hph] at h
  · obtain ⟨-, rfl⟩ | ⟨-, -, -, rfl⟩ | ⟨-, -, h0, -⟩ | ⟨hv, hst, -⟩ := phaseD1_next h
    · simp [State.stepsLeft, hph]
    · simp [State.stepsLeft, hph]
    · omega
    · exact absurd ⟨hph, hv, hst⟩ hstart
  · obtain ⟨-, rfl⟩ | ⟨hge, -⟩ := phaseD2_next hs h
    · simp [State.stepsLeft, hph]
    · exact absurd hi.rx.wcurBound (by omega)
  · have hit := phaseD3_keeps_inv hi hph h
    have hleft : s.stepsLeft = s.par.cRx + 2 := by simp only [State.stepsLeft, hph]
    rw [hleft]
    obtain ⟨-, rfl⟩ | ⟨-, rfl⟩ | ⟨-, rfl⟩ := phaseD3_next h
    · exact Nat.succ_pos _
    · exact Nat.lt_succ_of_le (hit.stepsLeft_d4_le rfl)
    · exact Nat.lt_succ_of_le (hit.stepsLeft_d4_le rfl)
  · exact hi.phaseD4_stepsLeft_lt hph h

theorem Inv.stepsLeft_drain_le (hi : Inv s) (hph : s.ph = .d1 ∨ s.ph = .d2 ∨ s.ph = .d3 ∨ s.ph = .d4) :
    s.stepsLeft ≤ s.par.cRx + 4 := by
  obtain hph | hph | hph | hph := hph
  · simp only [State.stepsLeft, hph, le_refl]
  · simp [State.stepsLeft, hph]
  · simp [State.stepsLeft, hph]
  · exact (hi.stepsLeft_d4_le hph).trans (by omega)

/-- Settles O37: the sequencer's step is neither a fault nor a refusal, and brings the end nearer. -/
theorem drainNeverBlocksPastTheStart : Obligations.DrainNeverBlocksPastTheStart := by
  intro s hi hf hph hstart
  have hne : s.ph ≠ .s1 ∧ s.ph ≠ .idle := by obtain h | h | h | h := hph <;> simp [h]
  obtain ⟨t, h⟩ := exec_seq_answers hi hf fun h1 => absurd h1 hne.1
  obtain ⟨-, hseq⟩ := execSeq_next h
  refine ⟨hi.stepsLeft_drain_le hph,
    ⟨t, h, (seqPhase_flt hi hseq).trans hf, seqPhase_drain_stepsLeft_lt hi hph hstart hseq⟩, fun i u ha hu => ?_⟩
  obtain ⟨hphase, -, hleft⟩ := exec_keeps_progress ha hne.2 hu
  exact ⟨hphase, hleft⟩

end Sys2Proof.Machine
end

section
/-! SUPPORT. DRAIN run with no other agent's step inside it (rules R99, R164). -/

namespace Sys2Proof.Machine

variable {s t : State}

/-! ## The bytes of the runs -/

/-- The elements a DRAIN at D4 has still to copy: the rest of the run to the snapshot, or of the tail run with the head run behind it. -/
def State.runCells (s : State) : List (Option Byte) :=
  if s.dend = s.snap then (List.range' s.dptr.toNat (s.snap.toNat - s.dptr.toNat)).map s.rxbuf
  else (List.range' s.dptr.toNat (s.par.cRx - s.dptr.toNat)).map s.rxbuf ++ (List.range s.snap.toNat).map s.rxbuf

theorem runCells_length (s : State) : s.runCells.length = s.runLeft := by
  unfold State.runCells State.runLeft; split <;> simp

theorem drainCells_length (s : State) : s.drainCells.length = unread s.par s.rxWcur.toNat s.drainFrom := by
  unfold State.drainCells unread; split <;> simp

theorem map_range'_eq_cons {f : Nat → Option Byte} {a b : Nat} (h : a < b) :
    (List.range' a (b - a)).map f = f a :: (List.range' (a + 1) (b - (a + 1))).map f := by
  rw [show b - a = b - (a + 1) + 1 by omega, List.range'_succ, List.map_cons]

/-- The byte D4 copies is the first of those left. -/
theorem Inv.runCells_copied (hi : Inv s) (hph : s.ph = .d4) (hlt : s.dptr.toNat < s.dend.toNat) (v : Byte) (c : Len) :
    s.runCells = s.rxbuf s.dptr.toNat :: (emitDrain v { s with dptr := len (s.dptr.toNat + 1), dcnt := c }).runCells := by
  have hptr := dptr_succ_toNat hlt
  have hrun := hi.rx.runEnd hph
  unfold State.runCells
  simp only [emitDrain_dptr, emitDrain_dend, emitDrain_snap, emitDrain_par, hptr]
  split
  · rename_i he
    rw [he] at hlt
    exact map_range'_eq_cons hlt
  · rename_i hne
    rw [hrun.resolve_left hne] at hlt
    rw [map_range'_eq_cons hlt]
    rfl

/-- At the end of the tail run the bytes left are the head run's. -/
theorem Inv.runCells_head (hi : Inv s) (hph : s.ph = .d4) (hend : s.dptr = s.dend) (hne : s.dend ≠ s.snap) :
    { s with rcur := 0, dptr := 0, dend := s.snap }.runCells = s.runCells := by
  have hlast : s.dptr.toNat = s.par.cRx := hend ▸ (hi.rx.runEnd hph).resolve_left hne
  rw [State.runCells, if_pos rfl, State.runCells, if_neg hne, hlast, Nat.sub_self, List.range_eq_range']
  rfl

/-! ## D4 in a row -/

theorem len_add_len (a b : Nat) : len ((len a).toNat + b) = len (a + b) :=
  Len.ext (by simp [len])

/-- The state in which a DRAIN ends that has still to copy the bytes `out`. -/
def drainedRest (out : List Byte) (s : State) : State :=
  respondDrain (len (s.dcnt.toNat + out.length))
    { s with rcur := s.snap, ph := .idle, obs := { s.obs with drainOut := s.obs.drainOut ++ out.map .byte } }

/-- With enough steps D4 copies the bytes left, in order, and ends the DRAIN at the snapshot. -/
theorem runSeq_d4 {k : Nat} (hi : Inv s) (hf : s.flt = .noFault) (hph : s.ph = .d4) (hk : s.stepsLeft ≤ k) :
    ∃ out t, runSeq k s = .next t ∧ out.map some = s.runCells ∧ t.lessDrain = (drainedRest out s).lessDrain := by
  induction k generalizing s with
  | zero => simp only [State.stepsLeft, hph] at hk; split at hk <;> omega
  | succ k ih =>
    obtain ⟨t, h⟩ := exec_seq_answers hi hf (by simp [hph])
    have hit := execSeq_keeps_inv hi h
    obtain ⟨-, hseq⟩ := execSeq_next h
    have hft := (seqPhase_flt hi hseq).trans hf
    simp only [seqPhase, hph] at hseq
    have hleft : t.stepsLeft ≤ k := by have := hi.phaseD4_stepsLeft_lt hph hseq; omega
    obtain ⟨hlt, v, hv, rfl⟩ | ⟨hend, he, rfl⟩ | ⟨hend, hne, rfl⟩ := hi.phaseD4_cases hph hseq
    · obtain ⟨out, u, hrun, hout, hu⟩ := ih hit hft hph hleft
      refine ⟨v :: out, u, runSeq_succ h hrun, ?_, hu.trans ?_⟩
      · rw [hi.runCells_copied hph hlt v (len (s.dcnt.toNat + 1)), hv, List.map_cons, hout]
      · simp [drainedRest, State.lessDrain, respondDrain, respond, emitDrain, len_add_len, Nat.add_assoc, Nat.add_comm 1]
    · refine ⟨[], _, runSeq_succ h (runSeq_idle k hft rfl), ?_, ?_⟩
      · simp [State.runCells, hend, he]
      · simp [drainedRest]
    · obtain ⟨out, u, hrun, hout, hu⟩ := ih hit hft hph hleft
      exact ⟨out, u, runSeq_succ h hrun, hout.trans (hi.runCells_head hph hend hne), hu⟩

/-! ## From the acceptance to D4 -/

theorem drainFrom_valid (hv : s.rcurValid = true) : s.drainFrom = s.rcur.toNat := if_pos hv

/-- Once the snapshot is taken, the bytes a DRAIN copies are those between the cursor and the snapshot. -/
theorem drainCells_of_snapshot (hv : s.rcurValid = true) (hsnap : s.snap = s.rxWcur) : s.drainCells =
    if s.rcur.toNat ≤ s.snap.toNat then (List.range' s.rcur.toNat (s.snap.toNat - s.rcur.toNat)).map s.rxbuf
    else (List.range' s.rcur.toNat (s.par.cRx - s.rcur.toNat)).map s.rxbuf ++ (List.range s.snap.toNat).map s.rxbuf := by
  rw [State.drainCells, drainFrom_valid hv, hsnap]

theorem Inv.drainFrom_lt (hi : Inv s) : s.drainFrom < s.par.cRx := by
  obtain ⟨-, -, hcRx, -⟩ := (paramsOk_iff _).1 hi.params
  unfold State.drainFrom
  split
  · exact hi.rx.rcurBound ‹_›
  · omega

theorem zext32_len {n : Nat} (h : n < 65536) : zext32 (len n) = BitVec.ofNat 32 n := by rw [zext32, len_toNat h]

/-- D3 on a snapshot of the write cursor: there is nothing to copy, or the runs that D4 copies are those of `drain_atomic`. -/
theorem Inv.phaseD3_cases (hi : Inv s) (hph : s.ph = .d3) (hsnap : s.snap = s.rxWcur) (h : phaseD3 s = .next t) :
    s.drainCells = [] ∧ s.rcur = s.snap ∧ t = respondDrain 0 { s with dcnt := 0, ph := .idle } ∨
      t.runCells = s.drainCells ∧ ∃ e, t = { s with dcnt := 0, dptr := s.rcur, dend := e, ph := .d4 } := by
  have hw := hi.rx.snapBound (.inl hph)
  obtain ⟨-, -, -, hcRx, -⟩ := (paramsOk_iff _).1 hi.params
  have hcells := drainCells_of_snapshot (hi.rx.drainValid (.inr (.inl hph))) hsnap
  obtain ⟨he, rfl⟩ | ⟨hlt, rfl⟩ | ⟨hgt, rfl⟩ := phaseD3_next h
  · exact .inl ⟨by simp [hcells, he], he, rfl⟩
  · refine .inr ⟨?_, _, rfl⟩
    rw [hcells, if_pos hlt.le, State.runCells, if_pos rfl]
    rfl
  · refine .inr ⟨?_, _, rfl⟩
    have hne : len s.par.cRx ≠ s.snap := fun he => by rw [← he, len_toNat (by omega)] at hw; exact lt_irrefl _ hw
    rw [hcells, if_neg (Nat.not_le.2 hgt), State.runCells, if_neg hne]
    rfl

/-- From D3 on a snapshot of the write cursor a DRAIN returns what `drain_atomic` does. -/
theorem runSeq_d3 {k : Nat} (hi : Inv s) (hf : s.flt = .noFault) (hph : s.ph = .d3) (hsnap : s.snap = s.rxWcur)
    (hk : s.par.cRx + 1 ≤ k) : ∃ out t, runSeq (k + 1) s = .next t ∧ out.map some = s.drainCells ∧
      t.lessDrain = (drainReturned out { s with ph := .idle }).lessDrain := by
  obtain ⟨t, h⟩ := exec_seq_answers hi hf (by simp [hph])
  have hit := execSeq_keeps_inv hi h
  obtain ⟨-, hseq⟩ := execSeq_next h
  have hft := (seqPhase_flt hi hseq).trans hf
  have hv := hi.rx.drainValid (.inr (.inl hph))
  simp only [seqPhase, hph] at hseq
  obtain ⟨hnil, he, rfl⟩ | ⟨hcells, e, rfl⟩ := hi.phaseD3_cases hph hsnap hseq
  · refine ⟨[], _, runSeq_succ h (runSeq_idle k hft rfl), hnil.symm, ?_⟩
    simp [State.lessDrain, respondDrain, respond, drainReturned, he, hsnap, hv, zext32]
  · obtain ⟨out, u, hrun, hout, hu⟩ := runSeq_d4 hit hft rfl ((hit.stepsLeft_d4_le rfl).trans hk)
    refine ⟨out, u, runSeq_succ h hrun, hout.trans hcells, hu.trans ?_⟩
    have hlen : out.length < 65536 := by
      have hcount := hit.rx.runCount rfl
      rw [← runCells_length, ← hout, List.length_map] at hcount
      obtain ⟨-, -, -, hcRx, -⟩ := (paramsOk_iff _).1 hi.params
      have : out.length < s.par.cRx := (Nat.le_add_left _ _).trans_lt hcount
      omega
    simp [State.lessDrain, drainedRest, respondDrain, respond, drainReturned, hsnap, hv, zext32_len hlen]

/-- D1 of a channel that has started leaves the cursor a DRAIN starts from (rule R155). -/
theorem exec_seq_d1_started (hp : paramsOk s.par = true) (hf : s.flt = .noFault) (hph : s.ph = .d1)
    (hst : s.rcurValid = true ∨ s.rxStarted = true) :
    exec .seq s = .next { s with rcur := len s.drainFrom, rcurValid := true, ph := .d2 } := by
  obtain ⟨hvalid, hfirst, -⟩ := phaseD1InitializesTheCursor s hp hf hph
  rcases Bool.eq_false_or_eq_true s.rcurValid with hv | hv
  · rw [hvalid hv]; simp [State.drainFrom, hv]
  · rw [hfirst hv (hst.resolve_left (by simp [hv]))]; simp [State.drainFrom, hv, len]

theorem runCommand_drain (k : Nat) (hf : s.flt = .noFault) (hph : s.ph = .idle) (hc : s.cfg = true) :
    runCommand .drain k s = runSeq k { s with ph := .d1 } := by
  simp only [runCommand, execDrain_idle hf hph hc]

/-- The state in which a DRAIN comes to D3 with no other agent's step before. -/
def State.snapshotted (s : State) : State :=
  { s with rcur := len s.drainFrom, rcurValid := true, snap := s.rxWcur, ph := .d3 }

theorem Inv.snapshotted (hi : Inv s) (hf : s.flt = .noFault) (hph : s.ph = .idle) (hc : s.cfg = true)
    (hst : s.rcurValid = true ∨ s.rxStarted = true) :
    Inv s.snapshotted ∧ ∀ k, runCommand .drain (k + 2) s = runSeq k s.snapshotted := by
  have h₀ := execDrain_idle hf hph hc
  have hi₁ := exec_keeps_inv hi rfl h₀
  have h₁ := exec_seq_d1_started hi₁.params hf rfl hst
  have hi₂ := exec_keeps_inv hi₁ rfl h₁
  have h₂ := (phaseD2TakesTheSnapshot _ hi₂.params hf rfl).1 hi₂.rx.wcurBound
  refine ⟨exec_keeps_inv hi₂ rfl h₂, fun k => ?_⟩
  rw [runCommand_drain _ hf hph hc]
  exact runSeq_succ h₁ (runSeq_succ h₂ rfl)

theorem Inv.drainCells_snapshotted (hi : Inv s) : s.snapshotted.drainCells = s.drainCells := by
  have hlt := hi.drainFrom_lt
  obtain ⟨-, -, -, hcRx, -⟩ := (paramsOk_iff _).1 hi.params
  have hfrom : s.snapshotted.drainFrom = s.drainFrom := len_toNat (by omega)
  unfold State.drainCells
  rw [hfrom]
  rfl

/-- Settles O36: D1 and D2 prepare the cursor and the snapshot, and D3 and D4 return the bytes between them. -/
theorem drainRunsAsDrainAtomic : Obligations.DrainRunsAsDrainAtomic := by
  intro s hi hf hph hc hst
  obtain ⟨hi₃, hrun₃⟩ := hi.snapshotted hf hph hc hst
  obtain ⟨out, t, hrun, hout, ht⟩ := runSeq_d3 (k := s.par.cRx + 2) hi₃ hf rfl rfl (Nat.le_succ _)
  have hcells := hout.trans hi.drainCells_snapshotted
  refine ⟨out, t, (hrun₃ _).trans hrun, hcells, ?_, ht.trans ?_⟩
  · rw [← drainCells_length, ← hcells, List.length_map]
  · simp [State.snapshotted, drainReturned, State.lessDrain, hph]

end Sys2Proof.Machine
end

section
/-! SUPPORT. What INIT, CSENTER and CSEXIT answer at IDLE, and critical sections nested by value (rules R180 to R182, R211). -/

namespace Sys2Proof.Machine

variable {s : State}

/-! ## Acceptance -/

theorem exec_init_idle (hf : s.flt = .noFault) (hph : s.ph = .idle) (hc : s.cfg = false) :
    exec .init s = .next { s with
      txActive := false, txLen := 0, txSent := 0, rxWcur := 0, rxStarted := false, rcurValid := false, irqPend := false
      cfg := true, obs := { s.obs with rspLog := s.obs.rspLog ++ [⟨0, 0⟩] } } :=
  (accept_idle hf hph).trans (if_neg (by simp [hc]))

theorem exec_csenter_idle (hf : s.flt = .noFault) (hph : s.ph = .idle) :
    exec .csenter s = .next (setMask true (respond 0 (if s.irqMask = true then 1 else 0) s)) := by
  have hdata : BitVec.ofNat 32 s.irqMask.toNat = if s.irqMask = true then 1 else 0 := by cases s.irqMask <;> rfl
  rw [← hdata]
  exact accept_idle hf hph

theorem exec_csexit_idle (m : Bool) (hf : s.flt = .noFault) (hph : s.ph = .idle) :
    exec (.csexit m) s = .next (respond 0 0 (setMask m s)) := accept_idle hf hph

/-! ## Nesting -/

/-- Settles O13: each of the four commands is accepted, as those before it leave `ph` and `flt`, and the mask each enter answers is
read off the state it is accepted in. -/
theorem criticalSectionsNest : Obligations.CriticalSectionsNest := by
  rintro s m hf hph rfl
  refine ⟨_, _, _, _, exec_csenter_idle hf hph, exec_csenter_idle ?_ ?_, exec_csexit_idle true ?_ ?_,
    exec_csexit_idle s.irqMask ?_ ?_, ?_, ?_, ?_⟩
  all_goals simp [hf, hph]

/-! ## The commands one by one -/

/-- Settles O10: acceptance at IDLE is the check of `cfg`; a configured block is refused by the law of O49. -/
theorem initConfiguresBothChannels : Obligations.InitConfiguresBothChannels :=
  fun s hf hph => ⟨exec_init_idle hf hph,
    fun hc => (refusalsAreExactly .init s .doubleInit).2 ⟨hf, .inl ⟨rfl, hph, hc, rfl⟩⟩⟩

/-- Settles O11: the acceptance at IDLE, and the hold of R185 while a command is in progress. -/
theorem csenterAnswersThePriorMask : Obligations.CsenterAnswersThePriorMask :=
  fun _ hf => ⟨exec_csenter_idle hf, exec_command_busy rfl hf⟩

/-- Settles O12: the acceptance at IDLE. -/
theorem csexitRestoresTheMask : Obligations.CsexitRestoresTheMask :=
  fun _ m hf hph => exec_csexit_idle m hf hph

end Sys2Proof.Machine
end

section
/-! SUPPORT. What IRQTAKE does when the signal is pending and not masked, and when it is not (rule R205). -/

namespace Sys2Proof.Machine

variable {s : State}

theorem exec_irqtake_delivers (hf : s.flt = .noFault) (hpend : s.irqPend = true) (hmask : s.irqMask = false) :
    exec .irqtake s =
      .next { s with irqPend := false, obs := { s.obs with irqLog := s.obs.irqLog ++ [.taken] } } :=
  stepWhen_enabled hf (by simp [State.irqLine, hpend, hmask])

theorem exec_irqtake_hold (hf : s.flt = .noFault) (h : s.irqPend = false ∨ s.irqMask = true) :
    exec .irqtake s = .next s :=
  exec_hold hf (.inr (.inr (.inr (.inr (.inr (.inr ⟨rfl, h⟩))))))

/-- Settles O45: the delivery and the hold; the commit window holds because invariant I8 masks the signal at S4 and S5. -/
theorem irqtakeDeliversTheSignal : Obligations.IrqtakeDeliversTheSignal :=
  fun _ hf => ⟨exec_irqtake_delivers hf, exec_irqtake_hold hf,
    fun hi hph => exec_irqtake_hold hf (.inr (hi.submit.masked hph))⟩

end Sys2Proof.Machine
end

section
/-! SUPPORT. What only reset clears: no instruction takes back `cfg` or an initialized read cursor (rule R241); and the autonomous
labels at a final state (rule R244). -/

namespace Sys2Proof.Machine

variable {s t : State} {i : Instr}

/-! ## What only reset clears -/

/-- INIT sets `cfg`, and acts only where it is not set yet (rule R180). -/
theorem execInit_keeps_cfg (h : execInit s = .next t) (hc : s.cfg = true) : t.cfg = true := by
  obtain ⟨-, ⟨-, -, rfl⟩ | ⟨-, rfl⟩⟩ := execInit_next h
  · rfl
  · exact hc

/-- Only INIT and the sequencer write `cfg` or `rcur_valid`. -/
theorem exec_cfg_rcurValid (hinit : i ≠ .init) (hseq : i ≠ .seq) (h : exec i s = .next t) :
    t.cfg = s.cfg ∧ t.rcurValid = s.rcurValid := by
  cases ha : agentOf i with
  | req => rw [exec_req_writes ha hinit h]; exact ⟨rfl, rfl⟩
  | seq => exact absurd (eq_seq_of_agentOf ha) hseq
  | txe => rw [(exec_txe_writes ha h).1]; exact ⟨rfl, rfl⟩
  | rxe => rw [exec_rxe_writes ha h]; exact ⟨rfl, rfl⟩
  | irq => rw [(exec_irq_writes ha h).1]; exact ⟨rfl, rfl⟩

/-- No instruction clears `cfg`: INIT alone writes it. -/
theorem exec_keeps_cfg (h : exec i s = .next t) (hc : s.cfg = true) : t.cfg = true := by
  by_cases hinit : i = .init
  · subst hinit; exact execInit_keeps_cfg h hc
  by_cases hseq : i = .seq
  · subst hseq
    obtain ⟨hw, -⟩ := seqPhase_writes (execSeq_next h).2
    rw [hw]; exact hc
  · exact (exec_cfg_rcurValid hinit hseq h).1.trans hc

/-- An initialized read cursor means a started channel, and so a configured block. -/
theorem RxInv.cfg_of_rcurValid (hi : RxInv s) (hv : s.rcurValid = true) : s.cfg = true :=
  hi.startedCfg (hi.validStarted hv)

/-- INIT acts on a block not configured, which has no read cursor to take back. -/
theorem execInit_keeps_rcurValid (hi : Inv s) (h : execInit s = .next t) (hv : s.rcurValid = true) : t.rcurValid = true := by
  obtain ⟨-, ⟨-, hc, -⟩ | ⟨-, rfl⟩⟩ := execInit_next h
  · rw [hi.rx.cfg_of_rcurValid hv] at hc; cases hc
  · exact hv

/-- The sequencer writes `rcur_valid` at D1 only, where it sets it. -/
theorem seqPhase_keeps_rcurValid (h : seqPhase s = .next t) (hv : s.rcurValid = true) : t.rcurValid = true := by
  obtain ⟨-, rfl⟩ | ⟨-, h⟩ | ⟨-, h⟩ | ⟨-, h⟩ | ⟨-, h⟩ | ⟨-, h⟩ | ⟨-, h⟩ | ⟨-, h⟩ | ⟨-, h⟩ | ⟨-, h⟩ | ⟨-, h⟩ :=
    seqPhase_next h
  · exact hv
  · obtain ⟨-, rfl | ⟨-, -, rfl⟩⟩ := phaseS1_next h <;> exact hv
  · obtain ⟨-, rfl⟩ := phaseS2_next h; exact hv
  · obtain rfl := phaseS3_next h; exact hv
  · obtain rfl := phaseS4_next h; exact hv
  · obtain ⟨-, rfl⟩ | ⟨-, rfl⟩ := phaseS5_next h <;> exact hv
  · obtain ⟨-, rfl⟩ := phaseS6_next h; exact hv
  · obtain ⟨-, rfl⟩ | ⟨-, -, -, rfl⟩ | ⟨-, -, -, rfl⟩ | ⟨-, -, rfl⟩ := phaseD1_next h
    case inr.inl => rfl
    all_goals exact hv
  · obtain ⟨_, -, -, h⟩ | ⟨-, rfl⟩ := withChannelCursor_next h
    · cases h; exact hv
    · exact hv
  · obtain ⟨-, rfl⟩ | ⟨-, rfl⟩ | ⟨-, rfl⟩ := phaseD3_next h <;> exact hv
  · obtain ⟨-, -, -, rfl⟩ | ⟨-, -, rfl⟩ | ⟨-, -, -, rfl⟩ | ⟨-, -, -, rfl⟩ | ⟨-, -, -, rfl⟩ | ⟨-, -, -, rfl⟩ :=
      phaseD4_next h <;> exact hv

/-- From a state that meets the invariants no instruction takes an initialized read cursor back. -/
theorem exec_keeps_rcurValid (hi : Inv s) (h : exec i s = .next t) (hv : s.rcurValid = true) : t.rcurValid = true := by
  by_cases hinit : i = .init
  · subst hinit; exact execInit_keeps_rcurValid hi h hv
  by_cases hseq : i = .seq
  · subst hseq; exact seqPhase_keeps_rcurValid (execSeq_next h).2 hv
  · exact (exec_cfg_rcurValid hinit hseq h).2.trans hv

/-- Settles O55: a step that answers a next state started without a fault, and the turn and the presentation it takes are inputs, so
what the instruction that runs keeps the step keeps. -/
theorem onlyResetClears : Obligations.OnlyResetClears := by
  intro s t hi h
  obtain ⟨-, hf, ⟨rfl, -⟩ | ⟨rfl, -⟩ | ⟨i, -, -, -, -, h⟩ | ⟨w, i, -, -, -, h⟩⟩ := step_next h
  · exact ⟨hf, id, id⟩
  · exact ⟨hf, id, id⟩
  · exact ⟨hf, exec_keeps_cfg (s := takePresented (takeTurn s)) h,
      exec_keeps_rcurValid (s := takePresented (takeTurn s)) hi.of_unread h⟩
  · exact ⟨hf, exec_keeps_cfg (s := takeTurn s) h, exec_keeps_rcurValid (s := takeTurn s) hi.of_unread h⟩

/-! ## The final states -/

theorem isFinal_iff (s : State) : s.isFinal = true ↔
    s.flt = .noFault ∧ s.ph = .idle ∧ s.txActive = false ∧ (s.irqPend = false ∨ s.irqMask = true) := by
  simp [State.isFinal, and_assoc]

/-- Settles O56: at a final state none of the four labels' agents is enabled, so each of them holds. -/
theorem finalStateHasNoAutonomousStep : Obligations.FinalStateHasNoAutonomousStep := by
  intro s hfin
  obtain ⟨hf, hph, hidle, hirq⟩ := (isFinal_iff s).1 hfin
  exact ⟨execSeq_hold hf (.inl hph), execTxsend_hold hf (.inl hidle),
    exec_hold hf (.inr (.inr (.inr (.inl ⟨rfl, .inl hidle⟩)))), exec_irqtake_hold hf hirq⟩

end Sys2Proof.Machine
end

section
/-! SUPPORT. The step of a state with a step word placed next: it runs the instruction the word, followed by zeros, decodes to (log
entry 3; rules R90, R92, R94). -/

namespace Sys2Proof

variable {w : Word} {ps : List Byte} {i : Instr}

/-! ## The three readings of a step word -/

/-- A label word is no SUBMIT, so no payload follows it (rules R92, R94). -/
theorem zeroPayload_of_label (hl : isLabelWord w = true) : zeroPayload w = [] := by
  refine zeroPayload_of_ne fun ho => ?_
  rw [isLabelWord_of_opcOf, ho] at hl
  exact absurd hl (by decide)

theorem decodeLabel_of_label (hl : isLabelWord w = true) : decodeLabel w = decode w [] := if_pos hl

theorem decodeCommand_of_command (hl : isLabelWord w = false) : decodeCommand w ps = decode w ps := if_neg (by simp [hl])

theorem decodeTableWord_eq_some {nbits n : Nat} (h : decodeTableWord nbits n = some i) :
    decode (tableWord nbits n) (zeroPayload (tableWord nbits n)) = .ok i := by
  unfold decodeTableWord at h
  split at h
  · rename_i j hd
    rw [hd, Option.some.inj h]
  · cases h

namespace Machine

variable {s : State}

/-! ## The placed word -/

theorem step_offerLabel (hp : paramsOk s.par = true) (hf : s.flt = .noFault) (hd : decodeLabel w = .ok i) :
    step (offerLabel w s) = exec i s :=
  (stepRunsTheDecodedInstruction (offerLabel w s) hp hf).2 w s.sched i rfl hd

theorem step_offerCommand (hp : paramsOk s.par = true) (hf : s.flt = .noFault) (hph : s.ph = .idle)
    (hd : decodeCommand w ps = .ok i) : step (offerCommand w ps s) = exec i s :=
  (stepRunsTheDecodedInstruction (offerCommand w ps s) hp hf).1 ⟨w, ps⟩ s.port s.sched i rfl rfl hph hd

/-- Bit 31 tells a label, which is the next turn, from a command, which the requester's turn takes at IDLE. -/
theorem step_offerWord (hp : paramsOk s.par = true) (hf : s.flt = .noFault) (hd : decode w (zeroPayload w) = .ok i)
    (hidle : agentOf i = .req → s.ph = .idle) : step (offerWord w s) = exec i s := by
  unfold offerWord
  cases hl : isLabelWord w with
  | true =>
    rw [zeroPayload_of_label hl, ← decodeLabel_of_label hl] at hd
    exact step_offerLabel hp hf hd
  | false =>
    have hreq : agentOf i = .req := by
      by_contra hne
      rw [(decode_agent hd).2 hne] at hl
      cases hl
    rw [← decodeCommand_of_command hl] at hd
    exact step_offerCommand hp hf (hidle hreq) hd

/-- Settles O9: the placed word is the one the decoder reads, as a label's turn or as a presentation. -/
theorem placedTableWordRuns : Obligations.PlacedTableWordRuns :=
  fun _ _ _ _ hp hf hd hidle => step_offerWord hp hf (decodeTableWord_eq_some hd) hidle

end Machine

end Sys2Proof
end
